-- ==== Sys2Proof/Word.lean ====
section
/-! DEFINITION. The fixed widths of the engine (spec 00_scope R5, R7). -/

namespace Sys2Proof

/-- A byte of IBUF or OBUF: 8 bits (R7). -/
abbrev Byte := BitVec 8

/-- A general register: XLEN = 64 bits (R5, R20). -/
abbrev Word := BitVec 64

/-- A command word, and the width of FCFG and FPRE: 32 bits (R5, R30, R31, R70). -/
abbrev CmdWord := BitVec 32

/-- An entry of the field-ID list IDL: IDW = 16 bits (R5, R37). -/
abbrev IdEntry := BitVec 16

/-- Half a byte (00_scope glossary "Nibble"). -/
abbrev Nibble := BitVec 4

end Sys2Proof
end

