-- ==== Sys2Proof/Syntax.lean ====
section
/-! DEFINITION. The 18 commands of spec 30_encoding R73 with the operands of R72, and the host actions of 20_memory
R60, which are the steps of the machine. -/

namespace Sys2Proof

/-- Field WC: the width in bytes, 1, 2, 4 or 8 (R72). -/
inductive Width where
  | w1
  | w2
  | w4
  | w8
deriving DecidableEq, Repr

/-- Field BE: the byte order (R72). -/
inductive Endian where
  | little
  | big
deriving DecidableEq, Repr

/-- Field SG: unsigned or two's complement (R72). -/
inductive Sign where
  | unsigned
  | signed
deriving DecidableEq, Repr

/-- Field M: the IMEI layout (R72). -/
inductive ImeiLayout where
  | plain
  | swapped
deriving DecidableEq, Repr

/-- The commands, one constructor per row of R73. Operands that are not here are in general registers (R70). -/
inductive Instr where
  | rdint (w : Width) (e : Endian) (sg : Sign)
  | wrint (w : Width) (e : Endian) (sg : Sign)
  | rdf32le
  | wrf32le
  | bcd2str
  | str2bcd
  | imei2bcd (m : ImeiLayout)
  | bcd2imei (m : ImeiLayout)
  | xorc
  | xorv
  | c16c
  | c16v
  | c8c
  | c8v
  | hdrp
  | hdrb
  | fhdr
  | fchk
deriving DecidableEq, Repr

/-- The registers and STATUS fields a host action can name (R20, R25, R30 to R34). CMD is a port and not storage
(R29): it is the argument of `HostAction.issue`. -/
inductive Reg where
  | off
  | len
  | val
  | claim
  | res
  | cnt
  | status
  | err
  | vok
  | fst
  | fcfg
  | fpre
  | ilen
  | olen
  | idn
deriving DecidableEq, Repr

/-- What a host read can name (R60, `HostRead`). -/
inductive Loc where
  | reg (r : Reg)
  | ibuf (i : Nat)
  | obuf (i : Nat)
  | idl (i : Nat)
deriving DecidableEq, Repr

/-- The host actions of R60: "Each is one step of the machine." -/
inductive HostAction where
  | writeReg (r : Reg) (v : Nat)
  | writeIbuf (i : Nat) (b : Byte)
  | writeIdl (i : Nat) (e : IdEntry)
  | read (loc : Loc)
  | issue (w : CmdWord)
  | reset
deriving DecidableEq, Repr

end Sys2Proof
end

