-- ==== Sys2Proof/Decode.lean ====
section
/-! DEFINITION. The command decoder of spec 30_encoding R80 over the table of R73, and after it the encoder (R71, R72,
R77). A command word comes with an Issue action and is never stored (R29, R62), so the decoder reads a 32-bit word. -/

namespace Sys2Proof

/-- Why a word is no command (R74). -/
inductive Reject where
  /-- OPC is none of the 18 listed values. -/
  | unassignedOpcode
  /-- A bit that the row's format reserves is not 0. -/
  | reservedBitSet
deriving DecidableEq, Repr

/-- Field WC, bits 9:8 (R72). -/
def widthField (w : CmdWord) : Width :=
  if w.extractLsb' 8 2 = 0#2 then .w1
  else if w.extractLsb' 8 2 = 1#2 then .w2
  else if w.extractLsb' 8 2 = 2#2 then .w4
  else .w8

/-- Field BE, bit 10 (R72). -/
def endianField (w : CmdWord) : Endian := if w.getLsbD 10 then .big else .little

/-- Field SG, bit 11 (R72). -/
def signField (w : CmdWord) : Sign := if w.getLsbD 11 then .signed else .unsigned

/-- Field M, bit 12 (R72). -/
def layoutField (w : CmdWord) : ImeiLayout := if w.getLsbD 12 then .swapped else .plain

/-- A row of the opcode map: a word `w` selects the row when `w & mask == match` (R73). -/
structure OpcodeRow where
  mnemonic : String
  matchWord : CmdWord
  mask : CmdWord
  operands : CmdWord → Instr

/-- OPC of a word, or of a row's match: bits 7:0 (R71). -/
def opcodeOf (w : CmdWord) : Byte := w.extractLsb' 0 8

/-- The opcode map of R73, row by row. -/
def opcodeTable : List OpcodeRow := [
  ⟨"RDINT",    0x00000001#32, 0xFFFFF0FF#32, fun w => .rdint (widthField w) (endianField w) (signField w)⟩,
  ⟨"WRINT",    0x00000002#32, 0xFFFFF0FF#32, fun w => .wrint (widthField w) (endianField w) (signField w)⟩,
  ⟨"RDF32LE",  0x00000003#32, 0xFFFFFFFF#32, fun _ => .rdf32le⟩,
  ⟨"WRF32LE",  0x00000004#32, 0xFFFFFFFF#32, fun _ => .wrf32le⟩,
  ⟨"BCD2STR",  0x00000005#32, 0xFFFFFFFF#32, fun _ => .bcd2str⟩,
  ⟨"STR2BCD",  0x00000006#32, 0xFFFFFFFF#32, fun _ => .str2bcd⟩,
  ⟨"IMEI2BCD", 0x00000007#32, 0xFFFFEFFF#32, fun w => .imei2bcd (layoutField w)⟩,
  ⟨"BCD2IMEI", 0x00000008#32, 0xFFFFEFFF#32, fun w => .bcd2imei (layoutField w)⟩,
  ⟨"XORC",     0x00000010#32, 0xFFFFFFFF#32, fun _ => .xorc⟩,
  ⟨"XORV",     0x00000011#32, 0xFFFFFFFF#32, fun _ => .xorv⟩,
  ⟨"C16C",     0x00000012#32, 0xFFFFFFFF#32, fun _ => .c16c⟩,
  ⟨"C16V",     0x00000013#32, 0xFFFFFFFF#32, fun _ => .c16v⟩,
  ⟨"C8C",      0x00000014#32, 0xFFFFFFFF#32, fun _ => .c8c⟩,
  ⟨"C8V",      0x00000015#32, 0xFFFFFFFF#32, fun _ => .c8v⟩,
  ⟨"HDRP",     0x00000020#32, 0xFFFFFFFF#32, fun _ => .hdrp⟩,
  ⟨"HDRB",     0x00000021#32, 0xFFFFFFFF#32, fun _ => .hdrb⟩,
  ⟨"FHDR",     0x00000030#32, 0xFFFFFFFF#32, fun _ => .fhdr⟩,
  ⟨"FCHK",     0x00000031#32, 0xFFFFFFFF#32, fun _ => .fchk⟩]

/-- The decoding algorithm of R80: the row with the word's OPC, then its mask and match. It depends on the word alone. -/
def decode (w : CmdWord) : Except Reject Instr :=
  match opcodeTable.find? (fun row => opcodeOf row.matchWord == opcodeOf w) with
  | none => .error .unassignedOpcode
  | some row => if w &&& row.mask = row.matchWord then .ok (row.operands w) else .error .reservedBitSet

/-- The instruction the decoder reads from the `nbits` low bits of `w`, numbered as spec/opcode_table.json numbers
them. The command word is one 32-bit word, so its bit 0 is bit 0 of the number. -/
def decodeTableWord (nbits w : Nat) : Option Instr :=
  (decode (BitVec.ofNat 32 (w % 2 ^ nbits))).toOption

/-- WC = log2 of the width (R72, R77). -/
def Width.code : Width → BitVec 2
  | .w1 => 0#2
  | .w2 => 1#2
  | .w4 => 2#2
  | .w8 => 3#2

/-- BE (R72, R77). -/
def Endian.code : Endian → BitVec 1
  | .little => 0#1
  | .big => 1#1

/-- SG (R72, R77). -/
def Sign.code : Sign → BitVec 1
  | .unsigned => 0#1
  | .signed => 1#1

/-- M (R72, R77). -/
def ImeiLayout.code : ImeiLayout → BitVec 1
  | .plain => 0#1
  | .swapped => 1#1

/-- Format Z: reserved 31:8, OPC (R71). -/
def formatZ (opc : Byte) : CmdWord := 0#24 ++ opc

/-- Format I: reserved 31:12, SG, BE, WC, OPC (R71). -/
def formatI (opc : Byte) (w : Width) (e : Endian) (sg : Sign) : CmdWord :=
  0#20 ++ (sg.code ++ (e.code ++ (w.code ++ opc)))

/-- Format M: reserved 31:13, M, reserved 11:8, OPC (R71). -/
def formatM (opc : Byte) (m : ImeiLayout) : CmdWord := 0#19 ++ (m.code ++ (0#4 ++ opc))

/-- The command word of an instruction (R71, R73, R77). -/
def encode : Instr → CmdWord
  | .rdint w e sg => formatI 0x01#8 w e sg
  | .wrint w e sg => formatI 0x02#8 w e sg
  | .rdf32le => formatZ 0x03#8
  | .wrf32le => formatZ 0x04#8
  | .bcd2str => formatZ 0x05#8
  | .str2bcd => formatZ 0x06#8
  | .imei2bcd m => formatM 0x07#8 m
  | .bcd2imei m => formatM 0x08#8 m
  | .xorc => formatZ 0x10#8
  | .xorv => formatZ 0x11#8
  | .c16c => formatZ 0x12#8
  | .c16v => formatZ 0x13#8
  | .c8c => formatZ 0x14#8
  | .c8v => formatZ 0x15#8
  | .hdrp => formatZ 0x20#8
  | .hdrb => formatZ 0x21#8
  | .fhdr => formatZ 0x30#8
  | .fchk => formatZ 0x31#8

/-- The name of an instruction's row (R73). -/
def Instr.mnemonic : Instr → String
  | .rdint _ _ _ => "RDINT"
  | .wrint _ _ _ => "WRINT"
  | .rdf32le => "RDF32LE"
  | .wrf32le => "WRF32LE"
  | .bcd2str => "BCD2STR"
  | .str2bcd => "STR2BCD"
  | .imei2bcd _ => "IMEI2BCD"
  | .bcd2imei _ => "BCD2IMEI"
  | .xorc => "XORC"
  | .xorv => "XORV"
  | .c16c => "C16C"
  | .c16v => "C16V"
  | .c8c => "C8C"
  | .c8v => "C8V"
  | .hdrp => "HDRP"
  | .hdrb => "HDRB"
  | .fhdr => "FHDR"
  | .fchk => "FCHK"

end Sys2Proof
end

