-- ==== Sys2Proof/Config.lean ====
section
/-! DEFINITION. What an implementation fixes (spec 00_scope R5, 10_state R40) and the free values of the model. -/

namespace Sys2Proof

/-- The open parameters of R5 that a step depends on. HOST_BINDING is the third: the model names state directly and
needs no value for it (20_memory R58, 93 U12). `State` carries a `Config`, which no step writes, so that a statement
about every state is a statement about every table and every capacity (log entry 1). -/
structure Config where
  /-- IBUF_CAP, the capacity of IBUF in bytes; 32 <= IBUF_CAP <= 9362 (R5). -/
  ibufCap : Nat
  /-- CRC8_TABLE: any 256 bytes (42_checksum R151, 93 U10). -/
  crc8Table : Crc8Table
deriving DecidableEq, Repr

namespace Config

/-- OBUF_CAP = 2 * IBUF_CAP (R5, 20_memory R50). -/
def obufCap (c : Config) : Nat := 2 * c.ibufCap

/-- IDL_CAP = 7 * IBUF_CAP (R5, 20_memory R50). -/
def idlCap (c : Config) : Nat := 7 * c.ibufCap

/-- The constraint R5 puts on IBUF_CAP. -/
def wf (c : Config) : Bool := decide (32 ≤ c.ibufCap) && decide (c.ibufCap ≤ 9362)

/-- The spec's suggested defaults: IBUF_CAP = 2048 and the table of R153 (R5; log entry 1). -/
def default : Config := { ibufCap := 2048, crc8Table := crc8DefaultTable }

end Config

/-- The three index spaces of 20_memory R50. -/
inductive Space where
  | ibuf
  | obuf
  | idl
deriving DecidableEq, Repr

/-- FREE VALUE (log entry 2). What a read of an unspecified location gives: location `index` of `space`, read while
the free-value counter of State is `time`. It has no body, so no proof can see a value of it
(10_state R35 to R37, 70_reset R221: "may differ from one reset to the next and from one read to the next"). -/
opaque Config.unspecified (space : Space) (w : Nat) (time index : Nat) : BitVec w

end Sys2Proof
end

