-- ==== Sys2Proof/Machine/State.lean ====
section
/-! DEFINITION. The state of the engine (spec 10_state), its error codes and frame states, the reasons a step can stop,
and the state after reset (10_state R41). -/

namespace Sys2Proof.Machine

/-- The error codes of STATUS.ERR by name (60_exceptions R200). Codes 11 to 14 are unused and have no name. -/
inductive ErrCode where
  /-- 0: the command completed without error. -/
  | ok
  /-- 1: reserved, never produced by the engine (R201). -/
  | malformedHexInput
  /-- 2 -/
  | invalidPreamble
  /-- 3 -/
  | lengthMismatch
  /-- 4 -/
  | checksumMismatch
  /-- 5 -/
  | truncatedPayloadError
  /-- 6: reserved, never produced by the engine (R201). -/
  | unknownFieldError
  /-- 7 -/
  | malformedHeaderError
  /-- 8 -/
  | valueOutOfRange
  /-- 9 -/
  | bcdNibbleError
  /-- 10 -/
  | badState
  /-- 15 -/
  | illegalCommand
deriving DecidableEq, Repr

/-- The states of the frame envelope state machine, in the order of 10_state R28. -/
inductive FrameState where
  | awaitingPreamble
  /-- Transient inside FHDR, never observable between commands. -/
  | readingLength
  | readingBody
  /-- Transient inside FCHK, never observable between commands. -/
  | verifyingChecksum
  | decoded
  | rejected
deriving DecidableEq, Repr

/-- Reasons for a fault. There are none: "No failure and no command word can halt, wedge or fault the engine"
(60_exceptions R205). An error is a code in STATUS.ERR, and the machine goes on. -/
inductive Fault
deriving DecidableEq, Repr

/-- Reasons for a refusal. -/
inductive Refusal where
  /-- Raised by exec's arm of an instruction that has no meaning yet. No arm raises it. Safe. -/
  | notModelled (mnemonic : String)
  /-- Raised by `HostAction.perform` for a host action that is not among those of 20_memory R60 (a register the host
  cannot write, a value or an index out of range): "a model has no step for it" (70_reset R226, 93 U3; log entry 3).
  UNSAFE: a real host could do it, and the model says nothing of what follows. -/
  | outsideHostContract (action : HostAction)
deriving DecidableEq, Repr

/-- The state of the engine. Each register has one home; STATUS is held as its three fields, as R25 allows, and the
32-bit word is computed from them (`State.status`, Flags.lean). The last four fields are the model's own. -/
structure State where
  /-- OFF, operand: index in IBUF of the first byte of the span (R20). -/
  off : Word
  /-- LEN, operand: length of the span (R20). -/
  len : Word
  /-- VAL, operand: the value to write, or the output width of STR2BCD (R20). -/
  val : Word
  /-- CLAIM, operand: the claimed checksum (R20). -/
  claim : Word
  /-- RES, result (R20). -/
  res : Word
  /-- CNT, result: number of IBUF bytes consumed (R20). -/
  cnt : Word
  /-- STATUS.ERR (R25, R26). -/
  err : ErrCode
  /-- STATUS.VOK (R25, R27). -/
  vok : Bool
  /-- STATUS.FST (R25, R28). -/
  fst : FrameState
  /-- FCFG, the frame configuration register; it stores all 32 bits as written (R30). -/
  fcfg : CmdWord
  /-- FPRE, the preamble register (R31). -/
  fpre : CmdWord
  /-- ILEN, the number of valid bytes in IBUF (R32). -/
  ilen : Nat
  /-- OLEN, the number of valid bytes in OBUF (R33). -/
  olen : Nat
  /-- IDN, the number of valid entries in IDL (R34). -/
  idn : Nat
  /-- IBUF: the bytes written since reset, by rising index (R35). An index not listed holds an unspecified byte. -/
  ibuf : List Host.Cell
  /-- OBUF: the valid bytes, by rising index (R36). Bytes at and above OLEN are unspecified and not listed. -/
  obuf : List Host.Cell
  /-- IDL: the entries written, by rising index (R37). An index not listed holds an unspecified entry. -/
  idl : List (Nat × IdEntry)
  /-- The open parameters of the engine, which no step writes (R5, R40; log entry 1). -/
  config : Config
  /-- The host actions still to come, oldest first (R60, R61; log entry 4). -/
  pending : List HostAction
  /-- What the latest host read returned, zero-extended (R60 `HostRead`; log entry 4). -/
  readPort : Option Word
  /-- Which free values come next: a step that takes a host action advances it (R221; log entry 2). -/
  freeCtr : Nat
deriving DecidableEq, Repr

/-- The state after reset, with nothing placed (R41, 70_reset R220): every register and length 0, STATUS 0, and no
buffer location holding a specified value (log entries 1, 2 and 4 for the model's own fields). -/
def State.reset : State where
  off := 0#64
  len := 0#64
  val := 0#64
  claim := 0#64
  res := 0#64
  cnt := 0#64
  err := .ok
  vok := false
  fst := .awaitingPreamble
  fcfg := 0#32
  fpre := 0#32
  ilen := 0
  olen := 0
  idn := 0
  ibuf := []
  obuf := []
  idl := []
  config := Config.default
  pending := []
  readPort := none
  freeCtr := 0

end Sys2Proof.Machine
end

