-- ==== Sys2Proof/Machine/Ops.lean ====
section
/-! DEFINITION. The named operations over the buffers and STATUS: reading and writing a location (spec 20_memory),
MemRead and MemWrite (00_scope R10), and ending a command in success or in failure (R11). -/

namespace Sys2Proof.Machine

/-! ### Buffers as sorted lists

One canonical form for the three index spaces: indices strictly rising. An index that is not listed holds no
specified value, so no entry can equal what an unlisted index reads as (log entry 2). -/

/-- What is held at index `i`, if anything is. -/
def Memory.lookup {w : Nat} : List (Nat × BitVec w) → Nat → Option (BitVec w)
  | [], _ => none
  | (a, b) :: rest, i => if a = i then some b else Memory.lookup rest i

/-- Write `v` at index `i`. -/
def Memory.insert {w : Nat} : List (Nat × BitVec w) → Nat → BitVec w → List (Nat × BitVec w)
  | [], i, v => [(i, v)]
  | (a, b) :: rest, i, v =>
    if i < a then (i, v) :: (a, b) :: rest
    else if i = a then (i, v) :: rest
    else (a, b) :: Memory.insert rest i v

/-- The values `vs` at the indices from `i` on, and nothing else. -/
def Memory.listFrom {w : Nat} (i : Nat) : List (BitVec w) → List (Nat × BitVec w)
  | [] => []
  | v :: vs => (i, v) :: Memory.listFrom (i + 1) vs

/-- The canonical form: indices strictly rising. -/
def Memory.wf {w : Nat} : List (Nat × BitVec w) → Bool
  | [] => true
  | [_] => true
  | (a, _) :: (b, v) :: rest => decide (a < b) && Memory.wf ((b, v) :: rest)

/-! ### Reads -/

/-- What IBUF holds at index `i`, if it was written since reset (R35). -/
def State.ibufAt (s : State) (i : Nat) : Option Byte := Memory.lookup s.ibuf i

/-- What OBUF holds at index `i`: specified below OLEN only (R36). -/
def State.obufAt (s : State) (i : Nat) : Option Byte :=
  if i < s.olen then Memory.lookup s.obuf i else none

/-- What IDL holds at index `i`: specified below IDN only (R37). -/
def State.idlAt (s : State) (i : Nat) : Option IdEntry :=
  if i < s.idn then Memory.lookup s.idl i else none

/-- A read of IBUF[i]; a location that holds no specified byte gives a free value (R221; log entry 2). -/
def State.ibufByte (s : State) (i : Nat) : Byte :=
  (s.ibufAt i).getD (Config.unspecified .ibuf 8 s.freeCtr i)

/-- A read of OBUF[i] (R36, R60; log entry 2). -/
def State.obufByte (s : State) (i : Nat) : Byte :=
  (s.obufAt i).getD (Config.unspecified .obuf 8 s.freeCtr i)

/-- A read of IDL[i] (R37, R60; log entry 2). -/
def State.idlEntry (s : State) (i : Nat) : IdEntry :=
  (s.idlAt i).getD (Config.unspecified .idl 16 s.freeCtr i)

/-- `MemRead(a, n)`: the bytes IBUF[a], ..., IBUF[a+n-1] (R10). Callers test `a + n <= ILEN` first (R53). -/
def State.memRead (s : State) (a n : Nat) : List Byte :=
  (List.range n).map fun k => s.ibufByte (a + k)

/-- `IBUF[0 .. ILEN)`, the payload of HDRP and FHDR (R174, R188). -/
def State.payload (s : State) : List Byte := s.memRead 0 s.ilen

/-- `[IDL[j] for j in 0 .. IDN-1]` as numbers (R175). -/
def State.fieldIds (s : State) : List Nat := (List.range s.idn).map fun j => (s.idlEntry j).toNat

/-! ### Writes -/

/-- `MemWrite(0, n, v)` and `OLEN <- n`: the whole result at OBUF[0 .. n), never appended; what lies at and above the
new OLEN is unspecified afterwards (R10, R36, 93 U2; log entry 5). -/
def State.memWrite (s : State) (v : List Byte) : State :=
  { s with obuf := Memory.listFrom 0 v, olen := v.length }

/-- `IDL[j] <- ids[j]` and `IDN <- |ids|`; entries at and above the new IDN are unspecified afterwards (R174; log
entry 5). -/
def State.idlWrite (s : State) (ids : List Nat) : State :=
  { s with idl := Memory.listFrom 0 (ids.map (BitVec.ofNat 16)), idn := ids.length }

/-! ### The end of a command

There is no trap (R205): a failure is a status write, so these two operations stand where another machine takes an
exception and returns from one. Nothing is saved and there is nothing to return from (R207). -/

/-- `raise E`: `STATUS.ERR <- code(E)`, `STATUS.VOK <- 0`, and nothing else (R11, R202). -/
def raise (e : ErrCode) (s : State) : State := { s with err := e, vok := false }

/-- The end of a command without failure: `STATUS.ERR <- 0`, `STATUS.VOK <- 0` (R11). -/
def succeed (s : State) : State := { s with err := .ok, vok := false }

/-- The state a command leaves: what it committed, or on a failure the state `s` it began in with the code (R11:
"Nothing computed before the `raise` is committed"). -/
def settle (s : State) : Except ErrCode State → State
  | .ok t => t
  | .error e => raise e s

/-- Every command ends in a next state (60_exceptions R205, 70_reset R231). -/
def complete (s : State) (r : Except ErrCode State) : Host.Outcome State Fault Refusal := .next (settle s r)

end Sys2Proof.Machine
end

