-- ==== Sys2Proof/Machine/Operands.lean ====
section
/-! DEFINITION. The operand forms: widths and byte orders (spec 40_primitive_codec R100), the operand span with its
bounds test (20_memory R53), signed readings (00_scope R9), and the fields of FCFG and FPRE (10_state R30, R31). -/

namespace Sys2Proof.Machine

/-- `w = 1 << WC` bytes (R72). -/
def widthBytes : Width → Nat
  | .w1 => 1
  | .w2 => 2
  | .w4 => 4
  | .w8 => 8

/-! ### Byte order (R100) -/

/-- `le(b)`: the byte at the lowest index is the least significant. -/
def leNat : List Byte → Nat
  | [] => 0
  | b :: bs => b.toNat + 256 * leNat bs

/-- `be(b)`: the byte at the lowest index is the most significant. -/
def beNat (b : List Byte) : Nat := leNat b.reverse

/-- `le_bytes(u, w)`. -/
def leBytes (u : Nat) : Nat → List Byte
  | 0 => []
  | w + 1 => BitVec.ofNat 8 (u % 256) :: leBytes (u / 256) w

/-- `be_bytes(u, w)`. -/
def beBytes (u w : Nat) : List Byte := (leBytes u w).reverse

/-- The unsigned integer of a byte sequence in byte order `e`. -/
def natOfBytes (e : Endian) (b : List Byte) : Nat :=
  match e with
  | .little => leNat b
  | .big => beNat b

/-- The `w` bytes of `u` in byte order `e`. -/
def bytesOfNat (e : Endian) (u w : Nat) : List Byte :=
  match e with
  | .little => leBytes u w
  | .big => beBytes u w

/-! ### Register operands -/

/-- `s64(v)` when SG = 1, `v` itself when SG = 0 (R9, R105). -/
def valueOperand (sg : Sign) (v : Word) : Int :=
  match sg with
  | .unsigned => (v.toNat : Int)
  | .signed => v.toInt

/-- The operand span of `n` bytes at `x[OFF]`: the test `x[OFF] + n <= ILEN` in unbounded arithmetic (R8), then the
bytes; TruncatedPayloadError when the test fails (R53). -/
def operandSpan (s : State) (n : Nat) : Except ErrCode (List Byte) :=
  if s.off.toNat + n ≤ s.ilen then .ok (s.memRead s.off.toNat n) else .error .truncatedPayloadError

/-- `s[i..i+n)` of a byte sequence (R10). -/
def slice (b : List Byte) (i n : Nat) : List Byte := (b.drop i).take n

/-! ### FCFG and FPRE -/

/-- FCFG.PREN, bits 2:0: the number of preamble bytes. -/
def fcfgPren (f : CmdWord) : Nat := (f.extractLsb' 0 3).toNat

/-- The width in bytes of the length field, `1 << LENW`, LENW in bits 4:3. -/
def fcfgLengthBytes (f : CmdWord) : Nat := 1 <<< (f.extractLsb' 3 2).toNat

/-- FCFG.LENE, bit 5: the byte order of the length field. -/
def fcfgLengthOrder (f : CmdWord) : Endian := if f.getLsbD 5 then .big else .little

/-- FCFG.CKALG, bits 7:6. -/
def fcfgCkalg (f : CmdWord) : BitVec 2 := f.extractLsb' 6 2

/-- FCFG.CKM, bit 8: a mismatch rejects the frame. -/
def fcfgMandatory (f : CmdWord) : Bool := f.getLsbD 8

/-- FCFG.LADJ, bits 23:16: frame bytes that follow the region the length field counts. -/
def fcfgLadj (f : CmdWord) : Nat := (f.extractLsb' 16 8).toNat

/-- `legal_fcfg`: bits 15:9 and 31:24 are 0, PREN <= 4, CKALG != 3 (R30). -/
def legalFcfg (f : CmdWord) : Bool :=
  f.extractLsb' 9 7 == 0#7 && f.extractLsb' 24 8 == 0#8 && decide (fcfgPren f ≤ 4) && fcfgCkalg f != 3#2

/-- Preamble byte `i`: `FPRE[8*i+7 : 8*i]` (R31). -/
def fpreByte (p : CmdWord) (i : Nat) : Byte := p.extractLsb' (8 * i) 8

/-- The preamble constant: FPRE bytes 0 .. PREN-1; the others are ignored (R31). -/
def preamble (f p : CmdWord) : List Byte := (List.range (fcfgPren f)).map (fpreByte p)

end Sys2Proof.Machine
end

