-- ==== Sys2Proof/Machine/Bcd.lean ====
section
/-! DEFINITION. The BCD digit codec and the IMEI utility (spec 41_bcd_imei): BCD2STR, STR2BCD, IMEI2BCD, BCD2IMEI. -/

namespace Sys2Proof.Machine

/-! ### Digits, characters and nibbles -/

/-- `hi(b) = b[7:4]` (R120). -/
def hiNibble (b : Byte) : Nibble := b.extractLsb' 4 4

/-- `lo(b) = b[3:0]` (R120). -/
def loNibble (b : Byte) : Nibble := b.extractLsb' 0 4

/-- A nibble that is a decimal digit: 0 .. 9 (R120). -/
def isBcdDigit (d : Nibble) : Bool := decide (d.toNat ≤ 9)

/-- `chr(d) = 0x30 + d` (R12). -/
def digitChar (d : Nibble) : Byte := 0x30#8 + d.setWidth 8

/-- `isdigit(c)`: 0x30 <= c <= 0x39 (R12). -/
def isDigitChar (c : Byte) : Bool := decide (0x30 ≤ c.toNat) && decide (c.toNat ≤ 0x39)

/-- `dig(c) = c - 0x30` (R12). -/
def digitOf (c : Byte) : Nibble := (c - 0x30#8).setWidth 4

/-- The nibbles of a byte sequence, high nibble first (R120, R127). -/
def nibblesPlain (b : List Byte) : List Nibble := b.flatMap fun x => [hiNibble x, loNibble x]

/-- The nibbles of a byte sequence, low nibble first (R128). -/
def nibblesSwapped (b : List Byte) : List Nibble := b.flatMap fun x => [loNibble x, hiNibble x]

/-- `[d[2k]*16 + d[2k+1]]`: two nibbles a byte, high nibble first (R122, R125). -/
def packPlain : List Nibble → List Byte
  | h :: l :: rest => (h ++ l) :: packPlain rest
  | _ => []

/-- `[d[2k+1]*16 + d[2k]]`: two nibbles a byte, low nibble first (R126). -/
def packSwapped : List Nibble → List Byte
  | l :: h :: rest => (h ++ l) :: packSwapped rest
  | _ => []

/-! ### The functions -/

/-- `bcdDigitsToString(b)` (R121). -/
def bcdDigitsToString (b : List Byte) : Except ErrCode (List Byte) :=
  if (nibblesPlain b).all isBcdDigit then .ok ((nibblesPlain b).map digitChar) else .error .bcdNibbleError

/-- `stringToBcdDigits(s, W)` (R122). -/
def stringToBcdDigits (str : List Byte) (w : Nat) : Except ErrCode (List Byte) :=
  if !str.all isDigitChar then .error .valueOutOfRange
  else if str.length > 2 * w then .error .valueOutOfRange
  else .ok (packPlain (List.replicate (2 * w - str.length) 0#4 ++ str.map digitOf))

/-- `imeiToBcd_plain(s)` (R125). -/
def imeiToBcdPlain (str : List Byte) : Except ErrCode (List Byte) :=
  if str.length ≠ 15 ∧ str.length ≠ 16 then .error .valueOutOfRange
  else if !str.all isDigitChar then .error .valueOutOfRange
  else if str.length = 16 ∧ str.head? = some 0x30#8 then .error .valueOutOfRange
  else .ok (packPlain ((if str.length = 15 then [0#4] else []) ++ str.map digitOf))

/-- `imeiToBcd_swapped(s)` (R126). -/
def imeiToBcdSwapped (str : List Byte) : Except ErrCode (List Byte) :=
  if str.length ≠ 15 ∧ str.length ≠ 16 then .error .valueOutOfRange
  else if !str.all isDigitChar then .error .valueOutOfRange
  else .ok (packSwapped (str.map digitOf ++ (if str.length = 15 then [0xF#4] else [])))

/-- `bcdToImei_plain(b)`, |b| = 8: exactly one leading 0 is dropped (R127). -/
def bcdToImeiPlain (b : List Byte) : Except ErrCode (List Byte) :=
  let d := nibblesPlain b
  if !d.all isBcdDigit then .error .bcdNibbleError
  else if d.head? = some 0#4 then .ok (d.tail.map digitChar)
  else .ok (d.map digitChar)

/-- `bcdToImei_swapped(b)`, |b| = 8: 0xF is accepted as the last nibble only, where it is dropped (R128). -/
def bcdToImeiSwapped (b : List Byte) : Except ErrCode (List Byte) :=
  let d := nibblesSwapped b
  if !d.dropLast.all isBcdDigit then .error .bcdNibbleError
  else if d.getLast? = some 0xF#4 then .ok (d.dropLast.map digitChar)
  else if d.all isBcdDigit then .ok (d.map digitChar)
  else .error .bcdNibbleError

/-- `imeiToBcd` in the layout of field M (R129). -/
def imeiToBcd (m : ImeiLayout) (str : List Byte) : Except ErrCode (List Byte) :=
  match m with
  | .plain => imeiToBcdPlain str
  | .swapped => imeiToBcdSwapped str

/-- `bcdToImei` in the layout of field M (R130). -/
def bcdToImei (m : ImeiLayout) (b : List Byte) : Except ErrCode (List Byte) :=
  match m with
  | .plain => bcdToImeiPlain b
  | .swapped => bcdToImeiSwapped b

/-! ### The commands -/

/-- BCD2STR (R123). -/
def execBcd2str (s : State) : Host.Outcome State Fault Refusal :=
  complete s do
    let b ← operandSpan s s.len.toNat
    let str ← bcdDigitsToString b
    return succeed { s.memWrite str with cnt := s.len }

/-- STR2BCD (R124). -/
def execStr2bcd (s : State) : Host.Outcome State Fault Refusal :=
  complete s do
    let str ← operandSpan s s.len.toNat
    if s.val.toNat > s.config.obufCap then .error .valueOutOfRange
    else do
      let b ← stringToBcdDigits str s.val.toNat
      return succeed { s.memWrite b with cnt := s.len }

/-- IMEI2BCD (R129). -/
def execImei2bcd (m : ImeiLayout) (s : State) : Host.Outcome State Fault Refusal :=
  complete s do
    let str ← operandSpan s s.len.toNat
    let b ← imeiToBcd m str
    return succeed { s.memWrite b with cnt := s.len }

/-- BCD2IMEI: the span is always 8 bytes and `x[LEN]` is not read (R130). -/
def execBcd2imei (m : ImeiLayout) (s : State) : Host.Outcome State Fault Refusal :=
  complete s do
    let b ← operandSpan s 8
    let str ← bcdToImei m b
    return succeed { s.memWrite str with cnt := 8#64 }

end Sys2Proof.Machine
end

