-- ==== Sys2Proof/Machine/BitmaskHeader.lean ====
section
/-! DEFINITION. The FLEX bitmask header codec (spec 43_bitmask_header): HDRP and HDRB. -/

namespace Sys2Proof.Machine

/-- The field IDs of header byte `k`: `7*k + bitIndex + 1` for each presence bit set, bitIndex 0 .. 6 ascending
(R171, R172). -/
def idsOfHeaderByte (k : Nat) (b : Byte) : List Nat :=
  ((List.range 7).filter fun bit => b.getLsbD bit).map fun bit => 7 * k + bit + 1

/-- The loop of `parseBitmaskHeader` from header byte `k` on, over the bytes that remain: the IDs, and `k` after the
last header byte (R172). -/
def parseHeaderFrom : Nat → List Byte → Except ErrCode (List Nat × Nat)
  | _, [] => .error .malformedHeaderError
  | k, b :: rest =>
    if b.getLsbD 7 then do
      let (ids, n) ← parseHeaderFrom (k + 1) rest
      return (idsOfHeaderByte k b ++ ids, n)
    else .ok (idsOfHeaderByte k b, k + 1)

/-- `parseBitmaskHeader(payload, offset)`: the active IDs and the bytes consumed (R172). -/
def parseBitmaskHeader (payload : List Byte) (offset : Nat) : Except ErrCode (List Nat × Nat) :=
  parseHeaderFrom 0 (payload.drop offset)

/-- `max(ids)`, or 0 when ids is empty (R173). -/
def maxId (ids : List Nat) : Nat := ids.foldl max 0

/-- `n = max(1, ceil(m / 7))`, the minimal length (R173). -/
def headerLength (ids : List Nat) : Nat := max 1 ((maxId ids + 6) / 7)

/-- The presence bits of header byte `k`: the OR of `1 << ((id-1) mod 7)` over the IDs with `(id-1) div 7 = k`
(R173). -/
def presenceBits (ids : List Nat) (k : Nat) : Byte :=
  ids.foldl (fun acc id => if (id - 1) / 7 = k then acc ||| (1#8 <<< ((id - 1) % 7)) else acc) 0#8

/-- `buildBitmaskHeader(ids)` for IDs that are not 0: the continuation bit on every byte except the last (R173). -/
def headerBytes (ids : List Nat) : List Byte :=
  (List.range (headerLength ids)).map fun k =>
    if k + 1 < headerLength ids then presenceBits ids k ||| 0x80#8 else presenceBits ids k

/-- `buildBitmaskHeader(activeFieldIds)`: an ID of 0 is out of range (R173). -/
def buildBitmaskHeader (ids : List Nat) : Except ErrCode (List Byte) :=
  if ids.contains 0 then .error .valueOutOfRange else .ok (headerBytes ids)

/-- HDRP (R174). -/
def execHdrp (s : State) : Host.Outcome State Fault Refusal :=
  complete s do
    let (ids, k) ← parseBitmaskHeader s.payload s.off.toNat
    return succeed { s.idlWrite ids with cnt := BitVec.ofNat 64 k }

/-- HDRB (R175). -/
def execHdrb (s : State) : Host.Outcome State Fault Refusal :=
  complete s <|
    if s.fieldIds.contains 0 then .error .valueOutOfRange
    else if headerLength s.fieldIds > s.config.obufCap then .error .valueOutOfRange
    else do
      let h ← buildBitmaskHeader s.fieldIds
      return succeed (s.memWrite h)

end Sys2Proof.Machine
end

