-- ==== Sys2Proof/Machine/Flags.lean ====
section
/-! DEFINITION. The status register: the numbers of its codes, the word the host reads, and the condition flag VOK
(spec 10_state R25 to R28, 60_exceptions R200). -/

namespace Sys2Proof.Machine

/-- The code of an error (R200). -/
def ErrCode.code : ErrCode → BitVec 4
  | .ok => 0#4
  | .malformedHexInput => 1#4
  | .invalidPreamble => 2#4
  | .lengthMismatch => 3#4
  | .checksumMismatch => 4#4
  | .truncatedPayloadError => 5#4
  | .unknownFieldError => 6#4
  | .malformedHeaderError => 7#4
  | .valueOutOfRange => 8#4
  | .bcdNibbleError => 9#4
  | .badState => 10#4
  | .illegalCommand => 15#4

/-- The value of a frame state (R28). -/
def FrameState.code : FrameState → BitVec 3
  | .awaitingPreamble => 0#3
  | .readingLength => 1#3
  | .readingBody => 2#3
  | .verifyingChecksum => 3#3
  | .decoded => 4#3
  | .rejected => 5#3

/-- STATUS as one word: FST in 7:5, VOK in 4, ERR in 3:0, bits 31:8 read as 0 (R25). -/
def State.status (s : State) : CmdWord :=
  0#24 ++ (s.fst.code ++ (BitVec.ofBool s.vok ++ s.err.code))

/-- The boolean of `verify`: the computed checksum, zero-extended, equals the whole 64-bit CLAIM (R27, 42_checksum
R144). -/
def claimMatches (computed claim : Word) : Bool := computed == claim

end Sys2Proof.Machine
end

