-- ==== Sys2Proof/Machine/Checksum.lean ====
section
/-! DEFINITION. The checksum generators (spec 42_checksum): XOR-sum, CRC-16/X25, CRC-8, and XORC, XORV, C16C, C16V, C8C,
C8V. -/

namespace Sys2Proof.Machine

/-- XOR-sum: initial value 0x00, no final transformation (R141). -/
def xorSum (span : List Byte) : Byte := span.foldl (fun acc b => acc ^^^ b) 0x00#8

/-- One byte of CRC-16/X25: `acc <- T16[(acc ^ b) & 0xFF] ^ (acc >> 8)` (R146). -/
def crc16Step (acc : BitVec 16) (b : Byte) : BitVec 16 :=
  t16Entry (acc.setWidth 8 ^^^ b) ^^^ (acc >>> 8)

/-- CRC-16/X25: initial value 0xFFFF, final XOR 0xFFFF (R146). -/
def crc16X25 (span : List Byte) : BitVec 16 := span.foldl crc16Step 0xFFFF#16 ^^^ 0xFFFF#16

/-- CRC-8 over a table: initial value 0xFF, `acc <- T8[acc ^ b]`, no final XOR (R152). -/
def crc8 (table : Crc8Table) (span : List Byte) : Byte :=
  span.foldl (fun acc b => crc8Lookup table (acc ^^^ b)) 0xFF#8

/-- XOR-sum as a register value. -/
def xorSumWord (span : List Byte) : Word := (xorSum span).setWidth 64

/-- CRC-16/X25 as a register value: an integer, which the engine does not serialise (R150). -/
def crc16Word (span : List Byte) : Word := (crc16X25 span).setWidth 64

/-- CRC-8 as a register value. -/
def crc8Word (table : Crc8Table) (span : List Byte) : Word := (crc8 table span).setWidth 64

/-- `compute`: RES takes the checksum of the span of LEN bytes at OFF, CNT its length (R140, R142, R148, R154). -/
def computeChecksum (checksum : List Byte → Word) (s : State) : Host.Outcome State Fault Refusal :=
  complete s do
    let span ← operandSpan s s.len.toNat
    return succeed { s with res := checksum span, cnt := s.len }

/-- `verify`: the same, and VOK takes whether the checksum equals CLAIM; a mismatch is no failure (R143, R144, R149,
R155). -/
def verifyChecksum (checksum : List Byte → Word) (s : State) : Host.Outcome State Fault Refusal :=
  complete s do
    let span ← operandSpan s s.len.toNat
    let c := checksum span
    return { s with res := c, cnt := s.len, vok := claimMatches c s.claim, err := .ok }

/-- XORC (R142). -/
def execXorc (s : State) : Host.Outcome State Fault Refusal := computeChecksum xorSumWord s

/-- XORV (R143). -/
def execXorv (s : State) : Host.Outcome State Fault Refusal := verifyChecksum xorSumWord s

/-- C16C (R148). -/
def execC16c (s : State) : Host.Outcome State Fault Refusal := computeChecksum crc16Word s

/-- C16V (R149). -/
def execC16v (s : State) : Host.Outcome State Fault Refusal := verifyChecksum crc16Word s

/-- C8C (R154). -/
def execC8c (s : State) : Host.Outcome State Fault Refusal := computeChecksum (crc8Word s.config.crc8Table) s

/-- C8V (R155). -/
def execC8v (s : State) : Host.Outcome State Fault Refusal := verifyChecksum (crc8Word s.config.crc8Table) s

end Sys2Proof.Machine
end

