-- ==== Sys2Proof/Machine/Primitive.lean ====
section
/-! DEFINITION. The primitive codec (spec 40_primitive_codec): readInt and writeInt, and RDINT, WRINT, RDF32LE,
WRF32LE. -/

namespace Sys2Proof.Machine

/-- `readInt(b, w, endian, signed)` with `w = |b|` (R101). -/
def readInt (b : List Byte) (e : Endian) (sg : Sign) : Int :=
  let u := natOfBytes e b
  match sg with
  | .unsigned => (u : Int)
  | .signed => if u ≥ 2 ^ (8 * b.length - 1) then (u : Int) - 2 ^ (8 * b.length) else (u : Int)

/-- `v` fits `w` bytes under `sg` (R102). -/
def intFits (v : Int) (w : Nat) (sg : Sign) : Bool :=
  match sg with
  | .unsigned => decide (0 ≤ v) && decide (v < 2 ^ (8 * w))
  | .signed => decide (-(2 ^ (8 * w - 1)) ≤ v) && decide (v < 2 ^ (8 * w - 1))

/-- `writeInt(v, w, endian, signed)` (R102). -/
def writeInt (v : Int) (w : Nat) (e : Endian) (sg : Sign) : Except ErrCode (List Byte) :=
  if intFits v w sg then .ok (bytesOfNat e (v % 2 ^ (8 * w)).toNat w) else .error .valueOutOfRange

/-- What a binary32 pattern denotes (R106): `finite` is `significand * 2^exponent`, negated when `negative`, and covers
both zeros and the subnormals. No command evaluates it; it says what a pattern means (R111). -/
inductive FloatDatum where
  | finite (negative : Bool) (significand : Nat) (exponent : Int)
  | infinity (negative : Bool)
  | nan (quiet : Bool)
deriving DecidableEq, Repr

/-- The datum of a pattern with sign `p[31]`, exponent `p[30:23]` and fraction `p[22:0]` (R106). -/
def floatDatum (p : CmdWord) : FloatDatum :=
  let s := p.getLsbD 31
  let e := (p.extractLsb' 23 8).toNat
  let f := (p.extractLsb' 0 23).toNat
  if e = 0 then .finite s f (-149)
  else if e = 255 then if f = 0 then .infinity s else .nan (p.getLsbD 22)
  else .finite s (2 ^ 23 + f) ((e : Int) - 150)

/-- `readFloat32LE(b)`: the pattern, never evaluated (R107, R111). -/
def readFloat32LE (b : List Byte) : Nat := leNat b

/-- `writeFloat32LE(p)` (R108). -/
def writeFloat32LE (p : Nat) : List Byte := leBytes p 4

/-- RDINT (R104). -/
def execRdint (w : Width) (e : Endian) (sg : Sign) (s : State) : Host.Outcome State Fault Refusal :=
  complete s do
    let b ← operandSpan s (widthBytes w)
    return succeed { s with
      res := BitVec.ofInt 64 (readInt b e sg)
      cnt := BitVec.ofNat 64 (widthBytes w) }

/-- WRINT (R105). -/
def execWrint (w : Width) (e : Endian) (sg : Sign) (s : State) : Host.Outcome State Fault Refusal :=
  complete s do
    let bytes ← writeInt (valueOperand sg s.val) (widthBytes w) e sg
    return succeed (s.memWrite bytes)

/-- RDF32LE (R109). -/
def execRdf32le (s : State) : Host.Outcome State Fault Refusal :=
  complete s do
    let b ← operandSpan s 4
    return succeed { s with res := BitVec.ofNat 64 (readFloat32LE b), cnt := 4#64 }

/-- WRF32LE (R110). -/
def execWrf32le (s : State) : Host.Outcome State Fault Refusal :=
  complete s <|
    if s.val.toNat ≥ 2 ^ 32 then .error .valueOutOfRange
    else .ok (succeed (s.memWrite (writeFloat32LE s.val.toNat)))

end Sys2Proof.Machine
end

