-- ==== Sys2Proof/Machine/Frame.lean ====
section
/-! DEFINITION. The frame header parser and the checksum gate of the envelope state machine (spec 44_frame_header):
FHDR and FCHK. -/

namespace Sys2Proof.Machine

/-- `parseFrameHeader(buf, o)` under FCFG `f` and FPRE `p`: the declared length and the header's bytes (R187). -/
def parseFrameHeader (f p : CmdWord) (buf : List Byte) (o : Nat) : Except ErrCode (Nat × Nat) :=
  let pren := fcfgPren f
  let w := fcfgLengthBytes f
  if o + pren > buf.length then .error .truncatedPayloadError
  else if slice buf o pren ≠ preamble f p then .error .invalidPreamble
  else if o + pren + w > buf.length then .error .truncatedPayloadError
  else
    let declared := natOfBytes (fcfgLengthOrder f) (slice buf (o + pren) w)
    let rem := buf.length - (o + pren + w)
    if rem < declared + fcfgLadj f then .error .truncatedPayloadError
    else if rem > declared + fcfgLadj f then .error .lengthMismatch
    else .ok (declared, pren + w)

/-- The checksum FCFG.CKALG selects: 0 XOR-sum, 1 CRC-16/X25, 2 CRC-8 (R189). 3 is not legal and FCHK never gets
here with it. -/
def gateChecksum (ckalg : BitVec 2) (table : Crc8Table) (span : List Byte) : Word :=
  if ckalg = 0#2 then xorSumWord span
  else if ckalg = 1#2 then crc16Word span
  else crc8Word table span

/-- The verdict: Decoded if the checksum matched or is not mandatory, else Rejected (R189). -/
def verdict (f : CmdWord) (ok : Bool) : FrameState :=
  if ok || !fcfgMandatory f then .decoded else .rejected

/-- The state FHDR leaves: on a frame failure only STATUS is written, FST with Rejected (R188). -/
def fhdrState (s : State) : State :=
  if legalFcfg s.fcfg then
    match parseFrameHeader s.fcfg s.fpre s.payload s.off.toNat with
    | .ok (declared, h) =>
      succeed { s with res := BitVec.ofNat 64 declared, cnt := BitVec.ofNat 64 h, fst := .readingBody }
    | .error e => raise e { s with fst := .rejected }
  else raise .illegalCommand s

/-- FHDR (R188). -/
def execFhdr (s : State) : Host.Outcome State Fault Refusal := .next (fhdrState s)

/-- FCHK (R190). -/
def execFchk (s : State) : Host.Outcome State Fault Refusal :=
  complete s <|
    if !legalFcfg s.fcfg then .error .illegalCommand
    else if s.fst ≠ .readingBody then .error .badState
    else do
      let span ← operandSpan s s.len.toNat
      let c := gateChecksum (fcfgCkalg s.fcfg) s.config.crc8Table span
      let ok := claimMatches c s.claim
      return { s with
        res := c
        cnt := s.len
        vok := ok
        err := if ok then .ok else .checksumMismatch
        fst := verdict s.fcfg ok }

end Sys2Proof.Machine
end

