-- ==== Sys2Proof/Machine/Dispatch.lean ====
section
/-! DEFINITION. One arm per command: the meaning of each (spec 30_encoding R73, R80). -/

namespace Sys2Proof.Machine

def exec (i : Instr) (s : State) : Host.Outcome State Fault Refusal :=
  match i with
  -- 40_primitive_codec
  | .rdint w e sg => Sys2Proof.Machine.execRdint w e sg s
  | .wrint w e sg => Sys2Proof.Machine.execWrint w e sg s
  | .rdf32le => Sys2Proof.Machine.execRdf32le s
  | .wrf32le => Sys2Proof.Machine.execWrf32le s
  -- 41_bcd_imei
  | .bcd2str => Sys2Proof.Machine.execBcd2str s
  | .str2bcd => Sys2Proof.Machine.execStr2bcd s
  | .imei2bcd m => Sys2Proof.Machine.execImei2bcd m s
  | .bcd2imei m => Sys2Proof.Machine.execBcd2imei m s
  -- 42_checksum
  | .xorc => Sys2Proof.Machine.execXorc s
  | .xorv => Sys2Proof.Machine.execXorv s
  | .c16c => Sys2Proof.Machine.execC16c s
  | .c16v => Sys2Proof.Machine.execC16v s
  | .c8c => Sys2Proof.Machine.execC8c s
  | .c8v => Sys2Proof.Machine.execC8v s
  -- 43_bitmask_header
  | .hdrp => Sys2Proof.Machine.execHdrp s
  | .hdrb => Sys2Proof.Machine.execHdrb s
  -- 44_frame_header
  | .fhdr => Sys2Proof.Machine.execFhdr s
  | .fchk => Sys2Proof.Machine.execFchk s

end Sys2Proof.Machine
end

