-- ==== Sys2Proof/WellFormed.lean ====
section
/-! DEFINITION. Which terms are well formed. Every term of `Instr` is one of the 18 commands (spec 30_encoding R72: all
four values of WC are legal; R75), so the checks that can fail are those of the host actions (20_memory R60,
70_reset R226). -/

namespace Sys2Proof

/-- Every combination of the fields of R72 is legal. -/
def Instr.wellFormed : Instr → Bool
  | .rdint _ _ _ => true
  | .wrint _ _ _ => true
  | .rdf32le => true
  | .wrf32le => true
  | .bcd2str => true
  | .str2bcd => true
  | .imei2bcd _ => true
  | .bcd2imei _ => true
  | .xorc => true
  | .xorv => true
  | .c16c => true
  | .c16v => true
  | .c8c => true
  | .c8v => true
  | .hdrp => true
  | .hdrb => true
  | .fhdr => true
  | .fchk => true

/-- `v` is a value the host may write to `r` (R60): OFF, LEN, VAL, CLAIM below 2^64, FCFG and FPRE below 2^32,
ILEN up to IBUF_CAP, IDN up to IDL_CAP. "it cannot write RES, CNT, STATUS, OLEN". -/
def Reg.writable (c : Config) (r : Reg) (v : Nat) : Bool :=
  match r with
  | .off => decide (v < 2 ^ 64)
  | .len => decide (v < 2 ^ 64)
  | .val => decide (v < 2 ^ 64)
  | .claim => decide (v < 2 ^ 64)
  | .fcfg => decide (v < 2 ^ 32)
  | .fpre => decide (v < 2 ^ 32)
  | .ilen => decide (v ≤ c.ibufCap)
  | .idn => decide (v ≤ c.idlCap)
  | .res => false
  | .cnt => false
  | .status => false
  | .err => false
  | .vok => false
  | .fst => false
  | .olen => false

/-- The location exists: an index is inside its buffer (R50). -/
def Loc.inRange (c : Config) : Loc → Bool
  | .reg _ => true
  | .ibuf i => decide (i < c.ibufCap)
  | .obuf i => decide (i < c.obufCap)
  | .idl i => decide (i < c.idlCap)

/-- The action is among the host actions of R60, under the capacities of `c`. -/
def HostAction.wellFormed (c : Config) : HostAction → Bool
  | .writeReg r v => r.writable c v
  | .writeIbuf i _ => decide (i < c.ibufCap)
  | .writeIdl i _ => decide (i < c.idlCap)
  | .read loc => loc.inRange c
  | .issue _ => true
  | .reset => true

end Sys2Proof
end

