-- ==== Sys2Proof/Machine/HostActions.lean ====
section
/-! DEFINITION. What each host action does (spec 20_memory R60), and where the next one comes from (R61). -/

namespace Sys2Proof.Machine

/-- `HostWriteReg(r, v)`: the register takes `v`, and nothing else changes (R60). The registers the host cannot write
are turned away before this (`Reg.writable`). -/
def hostWriteReg (r : Reg) (v : Nat) (s : State) : State :=
  match r with
  | .off => { s with off := BitVec.ofNat 64 v }
  | .len => { s with len := BitVec.ofNat 64 v }
  | .val => { s with val := BitVec.ofNat 64 v }
  | .claim => { s with claim := BitVec.ofNat 64 v }
  | .fcfg => { s with fcfg := BitVec.ofNat 32 v }
  | .fpre => { s with fpre := BitVec.ofNat 32 v }
  | .ilen => { s with ilen := v }
  | .idn => { s with idn := v }
  | .res => s
  | .cnt => s
  | .status => s
  | .err => s
  | .vok => s
  | .fst => s
  | .olen => s

/-- `HostWriteIBUF(i, b)`: IBUF[i] takes b (R60). -/
def hostWriteIbuf (i : Nat) (b : Byte) (s : State) : State := { s with ibuf := Memory.insert s.ibuf i b }

/-- `HostWriteIDL(i, e)`: IDL[i] takes e (R60). -/
def hostWriteIdl (i : Nat) (e : IdEntry) (s : State) : State := { s with idl := Memory.insert s.idl i e }

/-- The value of a register or STATUS field, zero-extended (R60). -/
def regValue (s : State) : Reg → Word
  | .off => s.off
  | .len => s.len
  | .val => s.val
  | .claim => s.claim
  | .res => s.res
  | .cnt => s.cnt
  | .status => s.status.setWidth 64
  | .err => s.err.code.setWidth 64
  | .vok => (BitVec.ofBool s.vok).setWidth 64
  | .fst => s.fst.code.setWidth 64
  | .fcfg => s.fcfg.setWidth 64
  | .fpre => s.fpre.setWidth 64
  | .ilen => BitVec.ofNat 64 s.ilen
  | .olen => BitVec.ofNat 64 s.olen
  | .idn => BitVec.ofNat 64 s.idn

/-- The value of any location; OBUF at and above OLEN and IDL at and above IDN give a free value (R60; log entry 2). -/
def locValue (s : State) : Loc → Word
  | .reg r => regValue s r
  | .ibuf i => (s.ibufByte i).setWidth 64
  | .obuf i => (s.obufByte i).setWidth 64
  | .idl i => (s.idlEntry i).setWidth 64

/-- `HostRead(loc)`: the value goes to the host; the engine is unchanged (R57, R60). -/
def hostRead (loc : Loc) (s : State) : State := { s with readPort := some (locValue s loc) }

/-- `Issue(w)`: a command word is decoded and executed; an illegal word only marks STATUS (R60, R74, R80). -/
def issue (w : CmdWord) (s : State) : Host.Outcome State Fault Refusal :=
  match decode w with
  | .ok i => exec i s
  | .error _ => .next (raise .illegalCommand s)

/-- `Reset`: all state takes its reset value (R41, R60, R220). The parameters are not state, the host's further
actions are not the engine's, and the free values go on (R221). -/
def hostReset (s : State) : State :=
  { State.reset with config := s.config, pending := s.pending, freeCtr := s.freeCtr }

/-- One host action; one that is not among those of R60 is refused (R226; log entry 3). -/
def performAction (a : HostAction) (s : State) : Host.Outcome State Fault Refusal :=
  if a.wellFormed s.config then
    match a with
    | .writeReg r v => .next (hostWriteReg r v s)
    | .writeIbuf i b => .next (hostWriteIbuf i b s)
    | .writeIdl i e => .next (hostWriteIdl i e s)
    | .read loc => .next (hostRead loc s)
    | .issue w => issue w s
    | .reset => .next (hostReset s)
  else .refused (.outsideHostContract a)

/-- The next host action in the total order of R61, and the state it finds: the action taken from the queue and the
free-value counter advanced. -/
def nextAction (s : State) : Option (HostAction × State) :=
  match s.pending with
  | [] => none
  | a :: rest => some (a, { s with pending := rest, freeCtr := s.freeCtr + 1 })

/-- Put the host action `Issue(w)` in front, so that it is the next step (log entry 4). -/
def placeIssue (s : State) (w : CmdWord) : State := { s with pending := .issue w :: s.pending }

end Sys2Proof.Machine
end

