-- ==== Sys2Proof/Machine/Step.lean ====
section
/-! DEFINITION. One step of the machine is one host action (spec 00_scope R6, 20_memory R60). -/

namespace Sys2Proof.Machine

/-- Take the next host action. With none to come the engine is idle: it has no halt state, nothing is pending in it
and nothing but a host action changes it (R60, 70_reset R231; log entry 4). -/
def step (s : State) : Host.Outcome State Fault Refusal :=
  match nextAction s with
  | none => .next s
  | some (a, s') => performAction a s'

/-- `s` with the command word made of the `nbits` low bits of `w` as the next thing the host issues. -/
def State.withFetchWord (s : State) (nbits w : Nat) : State :=
  placeIssue s (BitVec.ofNat 32 (w % 2 ^ nbits))

end Sys2Proof.Machine
end

