-- ==== Sys2Proof/Safety.lean ====
section
/-! DEFINITION. What counts as a safe state and a safe run, in the terms the statements use. -/

namespace Sys2Proof.Machine

/-- The frame states that can be seen between commands (spec 10_state R28). -/
def FrameState.observable : FrameState → Bool
  | .awaitingPreamble => true
  | .readingLength => false
  | .readingBody => true
  | .verifyingChecksum => false
  | .decoded => true
  | .rejected => true

/-- The error codes the engine can produce: all named ones but the two of R201 (60_exceptions R200, R201). -/
def ErrCode.produced : ErrCode → Bool
  | .ok => true
  | .malformedHexInput => false
  | .invalidPreamble => true
  | .lengthMismatch => true
  | .checksumMismatch => true
  | .truncatedPayloadError => true
  | .unknownFieldError => false
  | .malformedHeaderError => true
  | .valueOutOfRange => true
  | .bcdNibbleError => true
  | .badState => true
  | .illegalCommand => true

/-- What every state of a run meets, as long as the machine's parameters meet R5: the lengths and the buffers stay
inside the capacities (00_scope R5, 10_state R32 to R37, 20_memory R50, R54), the buffers keep their canonical form,
OBUF holds exactly OLEN bytes (R36), CNT counts bytes of IBUF (R20), STATUS holds no transient or unused code (R25,
R28, R201), and VOK is never set beside an error (R27). -/
structure State.Inv (s : State) : Prop where
  config_wf : s.config.wf = true
  ilen_le : s.ilen ≤ s.config.ibufCap
  olen_le : s.olen ≤ s.config.obufCap
  idn_le : s.idn ≤ s.config.idlCap
  ibuf_wf : Memory.wf s.ibuf = true
  ibuf_lt : ∀ c ∈ s.ibuf, c.1 < s.config.ibufCap
  obuf_indices : s.obuf.map Prod.fst = List.range s.olen
  idl_wf : Memory.wf s.idl = true
  idl_lt : ∀ c ∈ s.idl, c.1 < s.config.idlCap
  cnt_le : s.cnt.toNat ≤ s.config.ibufCap
  fst_observable : s.fst.observable = true
  err_produced : s.err.produced = true
  vok_err : s.vok = true → s.err = .ok

/-- Every host action still to come is among those of R60, under the engine's capacities (70_reset R226). -/
def State.withinContract (s : State) : Bool := s.pending.all fun a => a.wellFormed s.config

/-- A run of `n` steps from `s` is safe when it stops at no refusal (there are no faults). -/
def SafeFor (n : Nat) (s : State) : Prop := ∃ t, Sys2Proof.core.run n s = .next t

end Sys2Proof.Machine
end

