-- ==== Sys2Proof/Certificates/Slice0/Obligations.lean ====
section
/-! DEFINITION. The statements for the provers, and the words they are written in (namespace Sys2Proof.Claims). A
statement says what the spec says in plain arithmetic on bytes and bits where it can, so that it does not repeat the
model's own definition. A statement about a read of a location that holds no specified byte holds for every value of
the free value (log entry 2); a statement about every state holds for every `Config`, so for every IBUF_CAP and every
CRC8_TABLE (log entry 1). -/

namespace Sys2Proof.Claims

open Sys2Proof.Machine

/-! ### Words the statements use -/

/-- The state a failing command leaves: ERR and VOK, and nothing else (00_scope R11). -/
def fail (e : ErrCode) (s : State) : State := { s with err := e, vok := false }

/-- The state FHDR leaves on a frame failure: FST is written as well (44_frame_header R188). -/
def failFrame (e : ErrCode) (s : State) : State := { s with err := e, vok := false, fst := .rejected }

/-- The state a host action finds: itself taken from the queue, the free-value counter advanced (log entries 2, 4). -/
def taking (rest : List HostAction) (s : State) : State := { s with pending := rest, freeCtr := s.freeCtr + 1 }

/-- Apply `f` to the next state of an outcome. -/
def mapNext (f : State → State) : Host.Outcome State Fault Refusal → Host.Outcome State Fault Refusal
  | .next t => .next (f t)
  | .fault r => .fault r
  | .refused r => .refused r

/-- The host actions of 20_memory R60 in numbers, for an IBUF of `cap` bytes, an OBUF of `2*cap` and an IDL of `7*cap`
entries (R50, 70_reset R226). It does not mention the model's own test (`HostAction.wellFormed`). -/
def hostMay (cap : Nat) : HostAction → Prop
  | .writeReg r v =>
    (r ∈ [Reg.off, .len, .val, .claim] ∧ v < 2 ^ 64) ∨ (r ∈ [Reg.fcfg, .fpre] ∧ v < 2 ^ 32) ∨
      (r = .ilen ∧ v ≤ cap) ∨ (r = .idn ∧ v ≤ 7 * cap)
  | .writeIbuf i _ => i < cap
  | .writeIdl i _ => i < 7 * cap
  | .read (.reg _) => True
  | .read (.ibuf i) => i < cap
  | .read (.obuf i) => i < 2 * cap
  | .read (.idl i) => i < 7 * cap
  | .issue _ => True
  | .reset => True

/-- Every byte and entry a command can read holds a specified value: IBUF below ILEN, IDL below IDN (10_state R35,
R37). -/
def inputsSpecified (s : State) : Prop :=
  (∀ a < s.ilen, (s.ibufAt a).isSome = true) ∧ (∀ j < s.idn, (s.idlAt j).isSome = true)

/-- Byte `k` of the operand span, as a number. -/
def spanByte (s : State) (k : Nat) : Nat := (s.ibufByte (s.off.toNat + k)).toNat

/-- Nibble `p` of the operand span, high nibble of each byte first (41_bcd_imei R120). -/
def nibbleHighFirst (s : State) (p : Nat) : Nat :=
  if p % 2 = 0 then spanByte s (p / 2) / 16 else spanByte s (p / 2) % 16

/-- Nibble `p` of the operand span, low nibble of each byte first (R128). -/
def nibbleLowFirst (s : State) (p : Nat) : Nat :=
  if p % 2 = 0 then spanByte s (p / 2) % 16 else spanByte s (p / 2) / 16

/-- Every byte of the span of LEN bytes is a digit character, 0x30 to 0x39 (00_scope R12). -/
def spanIsDigits (s : State) : Prop := ∀ k < s.len.toNat, 0x30 ≤ spanByte s k ∧ spanByte s k ≤ 0x39

/-- The OPC values that select a command (30_encoding R73, R74). -/
def opcodes : List Nat :=
  [0x01, 0x02, 0x03, 0x04, 0x05, 0x06, 0x07, 0x08, 0x10, 0x11, 0x12, 0x13, 0x14, 0x15, 0x20, 0x21, 0x30, 0x31]

/-- The illegal words as R74 lists them. -/
def illegalWord (w : CmdWord) : Prop :=
  w.toNat % 256 ∉ opcodes ∨
  w.toNat / 2 ^ 13 ≠ 0 ∨
  (w.toNat / 2 ^ 8 % 16 ≠ 0 ∧ w.toNat % 256 ∉ [0x01, 0x02]) ∨
  (w.toNat / 2 ^ 12 % 2 ≠ 0 ∧ w.toNat % 256 ∉ [0x07, 0x08])

/-- FCFG.PREN, bits 2:0 (10_state R30). -/
def pren (s : State) : Nat := s.fcfg.toNat % 8

/-- The bytes of the length field, 1, 2, 4 or 8 by FCFG.LENW, bits 4:3 (R30). -/
def lengthBytes (s : State) : Nat := 2 ^ (s.fcfg.toNat / 8 % 4)

/-- The order of the length field by FCFG.LENE, bit 5 (R30). -/
def lengthOrder (s : State) : Endian := if s.fcfg.toNat / 32 % 2 = 1 then .big else .little

/-- FCFG.CKALG, bits 7:6 (R30). -/
def ckalg (s : State) : Nat := s.fcfg.toNat / 64 % 4

/-- FCFG.CKM, bit 8 (R30). -/
def mandatory (s : State) : Prop := s.fcfg.toNat / 256 % 2 = 1

/-- FCFG.LADJ, bits 23:16 (R30). -/
def ladj (s : State) : Nat := s.fcfg.toNat / 2 ^ 16 % 256

/-- `legal_fcfg` (R30). -/
def fcfgIsLegal (s : State) : Prop :=
  s.fcfg.toNat / 2 ^ 9 % 2 ^ 7 = 0 ∧ s.fcfg.toNat / 2 ^ 24 = 0 ∧ pren s ≤ 4 ∧ ckalg s ≠ 3

/-- The first PREN bytes of the frame are FPRE bytes 0 .. PREN-1, byte i being FPRE[8i+7:8i] (R31, R187). -/
def preambleMatches (s : State) : Prop := ∀ i < pren s, spanByte s i = s.fpre.toNat / 2 ^ (8 * i) % 256

/-- The length the frame declares (R187). -/
def declaredLength (s : State) : Nat :=
  natOfBytes (lengthOrder s) (s.memRead (s.off.toNat + pren s) (lengthBytes s))

/-- The checksum FCFG.CKALG selects over the operand span, as a number (R189). -/
def frameChecksum (s : State) : Nat :=
  if ckalg s = 0 then (xorSum (s.memRead s.off.toNat s.len.toNat)).toNat
  else if ckalg s = 1 then (crc16X25 (s.memRead s.off.toNat s.len.toNat)).toNat
  else (crc8 s.config.crc8Table (s.memRead s.off.toNat s.len.toNat)).toNat

/-- `n` rounds of a one-bit step. -/
def rounds {w : Nat} (f : BitVec w → BitVec w) (n : Nat) (r : BitVec w) : BitVec w := Nat.repeat f n r

/-- The bit-serial CRC-16/X25 of 42_checksum R158. -/
def crc16Serial (span : List Byte) : BitVec 16 :=
  span.foldl (fun acc b =>
    rounds (fun r => if r.getLsbD 0 then (r >>> 1) ^^^ 0x8408#16 else r >>> 1) 8 (acc ^^^ b.setWidth 16)) 0xFFFF#16
    ^^^ 0xFFFF#16

/-- The bit-serial CRC-8 of R158 with the default polynomial of R153. -/
def crc8Serial (span : List Byte) : Byte :=
  span.foldl (fun acc b =>
    rounds (fun r => if r.getLsbD 7 then (r <<< 1) ^^^ 0x31#8 else r <<< 1) 8 (acc ^^^ b)) 0xFF#8

/-- The commands that write RES on success (10_state R22). -/
def resWriters : List String :=
  ["RDINT", "RDF32LE", "XORC", "XORV", "C16C", "C16V", "C8C", "C8V", "FHDR", "FCHK"]

/-- The commands that write CNT on success (R22). -/
def cntWriters : List String :=
  ["RDINT", "RDF32LE", "BCD2STR", "STR2BCD", "IMEI2BCD", "BCD2IMEI", "XORC", "XORV", "C16C", "C16V", "C8C", "C8V",
    "HDRP", "FHDR", "FCHK"]

/-- The commands that write OBUF and OLEN on success (R22). -/
def obufWriters : List String := ["WRINT", "WRF32LE", "BCD2STR", "STR2BCD", "IMEI2BCD", "BCD2IMEI", "HDRB"]

/-- The commands that verify a checksum (R27). -/
def verifiers : List String := ["XORV", "C16V", "C8V", "FCHK"]

/-- The commands whose failure can be TruncatedPayloadError (60_exceptions R200). -/
def truncatable : List String :=
  ["RDINT", "RDF32LE", "BCD2STR", "STR2BCD", "IMEI2BCD", "BCD2IMEI", "XORC", "XORV", "C16C", "C16V", "C8C", "C8V",
    "FHDR", "FCHK"]

/-- The parts of the state no command writes: the operand and configuration registers, ILEN, IBUF, and the model's own
fields (10_state R21, R30 to R32, R35). -/
def sameOperands (s t : State) : Prop :=
  t.off = s.off ∧ t.len = s.len ∧ t.val = s.val ∧ t.claim = s.claim ∧ t.fcfg = s.fcfg ∧ t.fpre = s.fpre ∧
  t.ilen = s.ilen ∧ (∀ a, t.ibufAt a = s.ibufAt a) ∧ t.ibuf = s.ibuf ∧ t.config = s.config ∧
  t.pending = s.pending ∧ t.readPort = s.readPort ∧ t.freeCtr = s.freeCtr

end Sys2Proof.Claims

open Sys2Proof Sys2Proof.Machine Sys2Proof.Claims

/-! ### Encoding and the step -/

/-- R71, R73, R77: words of each format, written out from the spec, decode to the instruction they stand for. -/
def Obligations.SpecWordsDecode : Prop :=
  decode 0x00000A01#32 = .ok (.rdint .w4 .little .signed) ∧
  decode 0x00000501#32 = .ok (.rdint .w2 .big .unsigned) ∧
  decode 0x00000F02#32 = .ok (.wrint .w8 .big .signed) ∧
  decode 0x00001008#32 = .ok (.bcd2imei .swapped) ∧
  decode 0x00000013#32 = .ok .c16v ∧
  decode 0x00000020#32 = .ok .hdrp ∧
  decode 0x00000031#32 = .ok .fchk

/-- Every well-formed instruction is what the decoder reads from its own word (R72, R73, R80). -/
def Obligations.DecodeOfEncode : Prop :=
  ∀ i : Instr, i.wellFormed = true → decode (encode i) = .ok i

/-- No bit of a word is dropped: a word that decodes to `i` is the word of `i` (R71, R75, R80). -/
def Obligations.WordOfDecodedInstruction : Prop :=
  ∀ (w : CmdWord) (i : Instr), decode w = .ok i → encode i = w

/-- R73: no two rows of the opcode map overlap. -/
def Obligations.OpcodeRowsDisjoint : Prop :=
  opcodeTable.Pairwise fun a b => ∀ w : CmdWord, ¬ (w &&& a.mask = a.matchWord ∧ w &&& b.mask = b.matchWord)

/-- R74: exactly the words R74 lists select no command, and issuing one writes ERR = 15 and VOK = 0 and nothing
else. -/
def Obligations.IllegalWordOnlyMarksStatus : Prop :=
  ∀ w : CmdWord, (illegalWord w ↔ ∀ i, decode w ≠ .ok i) ∧
    (illegalWord w → ∀ (s : State) (rest : List HostAction), s.pending = .issue w :: rest →
      step s = .next { taking rest s with err := .illegalCommand, vok := false } ∧ ErrCode.illegalCommand.code = 15#4)

/-- R60, R80: when the next host action issues a word that decodes to `i`, the step is exec of `i`, at the state with
that action taken from the queue and the free-value counter advanced (the queue and the counter are the model's own:
log entries 2 and 4). -/
def Obligations.StepRunsDecodedCommand : Prop :=
  ∀ (s : State) (w : CmdWord) (rest : List HostAction) (i : Instr),
    s.pending = .issue w :: rest → decode w = .ok i → step s = exec i (taking rest s)

/-- R60: a host write of a register, within its range, makes the register take the value and changes nothing else. -/
def Obligations.HostWriteRegisterTakesValue : Prop :=
  ∀ (s : State) (r : Reg) (v : Nat) (rest : List HostAction),
    s.pending = .writeReg r v :: rest → ∀ u : State, u = taking rest s →
    (r = .off → v < 2 ^ 64 → ∃ t, step s = .next t ∧ t.off.toNat = v ∧ t = { u with off := t.off }) ∧
    (r = .len → v < 2 ^ 64 → ∃ t, step s = .next t ∧ t.len.toNat = v ∧ t = { u with len := t.len }) ∧
    (r = .val → v < 2 ^ 64 → ∃ t, step s = .next t ∧ t.val.toNat = v ∧ t = { u with val := t.val }) ∧
    (r = .claim → v < 2 ^ 64 → ∃ t, step s = .next t ∧ t.claim.toNat = v ∧ t = { u with claim := t.claim }) ∧
    (r = .fcfg → v < 2 ^ 32 → ∃ t, step s = .next t ∧ t.fcfg.toNat = v ∧ t = { u with fcfg := t.fcfg }) ∧
    (r = .fpre → v < 2 ^ 32 → ∃ t, step s = .next t ∧ t.fpre.toNat = v ∧ t = { u with fpre := t.fpre }) ∧
    (r = .ilen → v ≤ s.config.ibufCap → ∃ t, step s = .next t ∧ t.ilen = v ∧ t = { u with ilen := t.ilen }) ∧
    (r = .idn → v ≤ 7 * s.config.ibufCap → ∃ t, step s = .next t ∧ t.idn = v ∧ t = { u with idn := t.idn })

/-- R60: a host write of a buffer location is what that location then holds, every other location holds what it held,
and nothing else changes. -/
def Obligations.HostWriteBufferReadsBack : Prop :=
  ∀ (s : State) (i : Nat) (rest : List HostAction),
    (∀ b : Byte, s.pending = .writeIbuf i b :: rest → i < s.config.ibufCap →
      ∃ t, step s = .next t ∧ t.ibufAt i = some b ∧ (∀ j, j ≠ i → t.ibufAt j = s.ibufAt j) ∧
        t = { taking rest s with ibuf := t.ibuf }) ∧
    (∀ e : IdEntry, s.pending = .writeIdl i e :: rest → i < 7 * s.config.ibufCap →
      ∃ t, step s = .next t ∧ Memory.lookup t.idl i = some e ∧
        (∀ j, j ≠ i → Memory.lookup t.idl j = Memory.lookup s.idl j) ∧ t = { taking rest s with idl := t.idl })

/-- R60, R50, R25: a host read of any register or STATUS field, of IBUF below IBUF_CAP, OBUF below 2*IBUF_CAP or IDL
below 7*IBUF_CAP returns the value of the register, STATUS field or specified buffer location, and changes nothing (only
the model's own record of the value read, log entry 4). -/
def Obligations.HostReadReturnsValue : Prop :=
  ∀ (s : State) (loc : Loc) (rest : List HostAction),
    s.pending = .read loc :: rest → hostMay s.config.ibufCap (.read loc) →
    ∃ (t : State) (v : Word), step s = .next t ∧ t = { taking rest s with readPort := some v } ∧
      (loc = .reg .off → v = s.off) ∧ (loc = .reg .len → v = s.len) ∧ (loc = .reg .val → v = s.val) ∧
      (loc = .reg .claim → v = s.claim) ∧ (loc = .reg .res → v = s.res) ∧ (loc = .reg .cnt → v = s.cnt) ∧
      (loc = .reg .fcfg → v.toNat = s.fcfg.toNat) ∧ (loc = .reg .fpre → v.toNat = s.fpre.toNat) ∧
      (loc = .reg .status →
        v.toNat = s.err.code.toNat + 16 * s.vok.toNat + 32 * s.fst.code.toNat) ∧
      (loc = .reg .err → v.toNat = s.err.code.toNat) ∧ (loc = .reg .vok → v.toNat = s.vok.toNat) ∧
      (loc = .reg .fst → v.toNat = s.fst.code.toNat) ∧
      (s.Inv → loc = .reg .ilen → v.toNat = s.ilen) ∧ (s.Inv → loc = .reg .olen → v.toNat = s.olen) ∧
      (s.Inv → loc = .reg .idn → v.toNat = s.idn) ∧
      (∀ i b, loc = .ibuf i → s.ibufAt i = some b → v.toNat = b.toNat) ∧
      (∀ i b, loc = .obuf i → s.obufAt i = some b → v.toNat = b.toNat) ∧
      (∀ i e, loc = .idl i → s.idlAt i = some e → v.toNat = e.toNat)

/-- R60, R50, R226, in numbers (`hostMay`): an action inside the host's contract is always taken, one outside it is
refused by name, and so is any write of RES, CNT, STATUS or OLEN (that the step refuses is the model's choice, log
entry 3). -/
def Obligations.HostContractDecidesRefusal : Prop :=
  ∀ (s : State) (a : HostAction) (rest : List HostAction), s.pending = a :: rest →
    (hostMay s.config.ibufCap a → ∃ t, step s = .next t) ∧
    (¬ hostMay s.config.ibufCap a → step s = .refused (.outsideHostContract a)) ∧
    (∀ r v, r ∈ [Reg.res, .cnt, .status, .err, .vok, .fst, .olen] → a = .writeReg r v →
      step s = .refused (.outsideHostContract a))

/-- R220, R41: a Reset puts every register and length at 0, STATUS at 0, and leaves no buffer location with a specified
value. -/
def Obligations.ResetActionClearsState : Prop :=
  ∀ (s : State) (rest : List HostAction), s.pending = .reset :: rest →
    ∃ t, step s = .next t ∧
      t.off = 0#64 ∧ t.len = 0#64 ∧ t.val = 0#64 ∧ t.claim = 0#64 ∧ t.res = 0#64 ∧ t.cnt = 0#64 ∧
      t.err.code = 0#4 ∧ t.vok = false ∧ t.fst = .awaitingPreamble ∧ t.fst.code = 0#3 ∧ t.fcfg = 0#32 ∧
      t.fpre = 0#32 ∧ t.ilen = 0 ∧ t.olen = 0 ∧ t.idn = 0 ∧
      (∀ a, t.ibufAt a = none ∧ t.obufAt a = none ∧ Memory.lookup t.idl a = none)

/-- R41: the machine right after reset. -/
def Obligations.ResetStateValues : Prop :=
  State.reset.off = 0#64 ∧ State.reset.len = 0#64 ∧ State.reset.val = 0#64 ∧ State.reset.claim = 0#64 ∧
  State.reset.res = 0#64 ∧ State.reset.cnt = 0#64 ∧ State.reset.err.code = 0#4 ∧ State.reset.vok = false ∧
  State.reset.fst = .awaitingPreamble ∧ State.reset.fcfg = 0#32 ∧ State.reset.fpre = 0#32 ∧
  State.reset.ilen = 0 ∧ State.reset.olen = 0 ∧ State.reset.idn = 0 ∧
  ∀ a, State.reset.ibufAt a = none ∧ State.reset.obufAt a = none ∧ Memory.lookup State.reset.idl a = none

/-- R222: what each command gives straight after reset, whatever the parameters. -/
def Obligations.CommandsAfterReset : Prop :=
  ∀ (c : Config) (s : State), c.wf = true → s = { State.reset with config := c } →
    (∀ w e sg, exec (.rdint w e sg) s = .next (fail .truncatedPayloadError s)) ∧
    exec .rdf32le s = .next (fail .truncatedPayloadError s) ∧
    (∀ m, exec (.bcd2imei m) s = .next (fail .truncatedPayloadError s)) ∧
    exec .hdrp s = .next (fail .malformedHeaderError s) ∧
    (∀ m, exec (.imei2bcd m) s = .next (fail .valueOutOfRange s)) ∧
    exec .fchk s = .next (fail .badState s) ∧
    exec .fhdr s = .next (failFrame .truncatedPayloadError s) ∧
    exec .xorc s = .next { s with res := 0x00#64 } ∧
    exec .c16c s = .next { s with res := 0x0000#64 } ∧
    exec .c8c s = .next { s with res := 0xFF#64 } ∧
    exec .xorv s = .next { s with res := 0x00#64, vok := true } ∧
    exec .c16v s = .next { s with res := 0x0000#64, vok := true } ∧
    exec .c8v s = .next { s with res := 0xFF#64 } ∧
    exec .bcd2str s = .next s ∧
    exec .str2bcd s = .next s ∧
    (∀ w e sg, ∃ t, exec (.wrint w e sg) s = .next t ∧ t.olen = widthBytes w ∧
      (∀ k < widthBytes w, t.obufAt k = some 0x00#8) ∧ t = { s with obuf := t.obuf, olen := t.olen }) ∧
    exec .wrf32le s = .next { s with obuf := [(0, 0x00#8), (1, 0x00#8), (2, 0x00#8), (3, 0x00#8)], olen := 4 } ∧
    exec .hdrb s = .next { s with obuf := [(0, 0x00#8)], olen := 1 }

/-- R231: with no host action to come the engine stays as it is (that a step is then taken at all is the model's
choice, log entry 4). -/
def Obligations.IdleEngineStays : Prop := ∀ s : State, s.pending = [] → step s = .next s

/-! ### Primitive codec -/

/-- R100: the byte-order formulas and their inverses. -/
def Obligations.ByteOrderFormulas : Prop :=
  (∀ b : List Byte,
    leNat b = ∑ i : Fin b.length, b[i].toNat * 256 ^ i.val ∧
    beNat b = ∑ i : Fin b.length, b[i].toNat * 256 ^ (b.length - 1 - i.val) ∧
    leBytes (leNat b) b.length = b ∧ beBytes (beNat b) b.length = b) ∧
  (∀ u w : Nat, u < 256 ^ w →
    (leBytes u w).length = w ∧ (beBytes u w).length = w ∧
    (∀ i < w, (leBytes u w)[i]? = some (BitVec.ofNat 8 (u / 256 ^ i % 256))) ∧
    (∀ i < w, (beBytes u w)[i]? = some (BitVec.ofNat 8 (u / 256 ^ (w - 1 - i) % 256))) ∧
    leNat (leBytes u w) = u ∧ beNat (beBytes u w) = u)

/-- R101: the value readInt gives, unsigned and in two's complement, and its range. -/
def Obligations.ReadIntValue : Prop :=
  ∀ (b : List Byte) (e : Endian), b.length ∈ [1, 2, 4, 8] →
    readInt b e .unsigned = natOfBytes e b ∧
    0 ≤ readInt b e .unsigned ∧ readInt b e .unsigned < 2 ^ (8 * b.length) ∧
    (natOfBytes e b < 2 ^ (8 * b.length - 1) → readInt b e .signed = natOfBytes e b) ∧
    (2 ^ (8 * b.length - 1) ≤ natOfBytes e b → readInt b e .signed = (natOfBytes e b : Int) - 2 ^ (8 * b.length)) ∧
    -(2 ^ (8 * b.length - 1)) ≤ readInt b e .signed ∧ readInt b e .signed < 2 ^ (8 * b.length - 1)

/-- R102: writeInt fails exactly when the value does not fit, and otherwise gives the w bytes of v mod 2^(8w). -/
def Obligations.WriteIntFitsExactly : Prop :=
  ∀ (v : Int) (w : Width) (e : Endian),
    ((0 ≤ v ∧ v < 2 ^ (8 * widthBytes w)) →
      ∃ b, writeInt v (widthBytes w) e .unsigned = .ok b ∧ b.length = widthBytes w ∧
        (natOfBytes e b : Int) = v % 2 ^ (8 * widthBytes w)) ∧
    (¬ (0 ≤ v ∧ v < 2 ^ (8 * widthBytes w)) → writeInt v (widthBytes w) e .unsigned = .error .valueOutOfRange) ∧
    ((-(2 ^ (8 * widthBytes w - 1)) ≤ v ∧ v < 2 ^ (8 * widthBytes w - 1)) →
      ∃ b, writeInt v (widthBytes w) e .signed = .ok b ∧ b.length = widthBytes w ∧
        (natOfBytes e b : Int) = v % 2 ^ (8 * widthBytes w)) ∧
    (¬ (-(2 ^ (8 * widthBytes w - 1)) ≤ v ∧ v < 2 ^ (8 * widthBytes w - 1)) →
      writeInt v (widthBytes w) e .signed = .error .valueOutOfRange)

/-- R103: readInt and writeInt round-trip exactly, in both directions. -/
def Obligations.IntegerRoundTrip : Prop :=
  (∀ (v : Int) (w : Width) (e : Endian) (sg : Sign) (b : List Byte),
    writeInt v (widthBytes w) e sg = .ok b → readInt b e sg = v) ∧
  (∀ (w : Width) (e : Endian) (sg : Sign) (b : List Byte),
    b.length = widthBytes w → writeInt (readInt b e sg) (widthBytes w) e sg = .ok b)

/-- R104: RDINT. -/
def Obligations.RdintReadsInteger : Prop :=
  ∀ (s : State) (w : Width) (e : Endian) (sg : Sign),
    (s.off.toNat + widthBytes w ≤ s.ilen →
      ∃ t, exec (.rdint w e sg) s = .next t ∧
        (sg = .unsigned → t.res.toNat = natOfBytes e (s.memRead s.off.toNat (widthBytes w))) ∧
        (sg = .signed → t.res.toInt = readInt (s.memRead s.off.toNat (widthBytes w)) e .signed) ∧
        t.cnt.toNat = widthBytes w ∧
        t = { s with res := t.res, cnt := t.cnt, err := .ok, vok := false }) ∧
    (s.ilen < s.off.toNat + widthBytes w →
      exec (.rdint w e sg) s = .next (fail .truncatedPayloadError s))

/-- R105: WRINT. A value that fits is stored byte by byte: byte k of VAL at OBUF[k] (little-endian) or OBUF[w-1-k]
(big-endian), OBUF unspecified beyond; one that does not fit changes nothing but STATUS. -/
def Obligations.WrintWritesInteger : Prop :=
  ∀ (s : State) (w : Width) (e : Endian) (sg : Sign) (v : Int),
    v = (match sg with | .unsigned => (s.val.toNat : Int) | .signed => s.val.toInt) →
    ∀ fits : Prop, (fits ↔ match sg with
        | .unsigned => v < 2 ^ (8 * widthBytes w)
        | .signed => -(2 ^ (8 * widthBytes w - 1)) ≤ v ∧ v < 2 ^ (8 * widthBytes w - 1)) →
    (fits → ∃ t, exec (.wrint w e sg) s = .next t ∧ t.olen = widthBytes w ∧
      (∀ k < widthBytes w, t.obufAt (match e with | .little => k | .big => widthBytes w - 1 - k)
        = some (s.val.extractLsb' (8 * k) 8)) ∧
      (∀ a, widthBytes w ≤ a → t.obufAt a = none) ∧
      t = { s with obuf := t.obuf, olen := t.olen, err := .ok, vok := false }) ∧
    (¬ fits → exec (.wrint w e sg) s = .next (fail .valueOutOfRange s))

/-- R109: RDF32LE copies the four bytes into RES[31:0], bit for bit, and clears RES[63:32]. -/
def Obligations.Rdf32leCopiesPattern : Prop :=
  ∀ s : State,
    (s.off.toNat + 4 ≤ s.ilen →
      ∃ t, exec .rdf32le s = .next t ∧
        (∀ k < 4, t.res.extractLsb' (8 * k) 8 = s.ibufByte (s.off.toNat + k)) ∧
        t.res.extractLsb' 32 32 = 0#32 ∧ t.cnt = 4#64 ∧
        t = { s with res := t.res, cnt := t.cnt, err := .ok, vok := false }) ∧
    (s.ilen < s.off.toNat + 4 → exec .rdf32le s = .next (fail .truncatedPayloadError s))

/-- R110: WRF32LE writes VAL[31:0] least significant byte first; a VAL of 2^32 or more changes nothing but STATUS. -/
def Obligations.Wrf32leWritesPattern : Prop :=
  ∀ s : State,
    (s.val.toNat < 2 ^ 32 →
      ∃ t, exec .wrf32le s = .next t ∧ t.olen = 4 ∧
        (∀ k < 4, t.obufAt k = some (s.val.extractLsb' (8 * k) 8)) ∧ (∀ a, 4 ≤ a → t.obufAt a = none) ∧
        t = { s with obuf := t.obuf, olen := t.olen, err := .ok, vok := false }) ∧
    (2 ^ 32 ≤ s.val.toNat → exec .wrf32le s = .next (fail .valueOutOfRange s))

/-- R111 (a): the float round trips, for every pattern. -/
def Obligations.FloatPatternRoundTrip : Prop :=
  (∀ b : List Byte, b.length = 4 → writeFloat32LE (readFloat32LE b) = b) ∧
  (∀ p : Nat, p < 2 ^ 32 → readFloat32LE (writeFloat32LE p) = p)

/-- R106: what a binary32 pattern with sign `s`, exponent `e` and fraction `f` denotes. -/
def Obligations.FloatDatumOfPattern : Prop :=
  ∀ (p : CmdWord) (s e f : Nat), s < 2 → e < 256 → f < 2 ^ 23 → p.toNat = 2 ^ 31 * s + 2 ^ 23 * e + f →
    (e = 0 → floatDatum p = .finite (decide (s = 1)) f (-149)) ∧
    (1 ≤ e → e ≤ 254 → ∃ (m : Nat) (x : Int), floatDatum p = .finite (decide (s = 1)) m x ∧
      (m : Rat) * 2 ^ x = (1 + (f : Rat) / 2 ^ 23) * 2 ^ ((e : Int) - 127)) ∧
    (e = 255 → f = 0 → floatDatum p = .infinity (decide (s = 1))) ∧
    (e = 255 → f ≠ 0 → floatDatum p = .nan (decide (2 ^ 22 ≤ f)))

/-! ### BCD and IMEI -/

/-- R123, R121: BCD2STR. -/
def Obligations.Bcd2strDecodesDigits : Prop :=
  ∀ s : State,
    (s.off.toNat + s.len.toNat ≤ s.ilen → (∀ p < 2 * s.len.toNat, nibbleHighFirst s p ≤ 9) →
      ∃ t, exec .bcd2str s = .next t ∧ t.olen = 2 * s.len.toNat ∧
        (∀ p < 2 * s.len.toNat, t.obufAt p = some (BitVec.ofNat 8 (0x30 + nibbleHighFirst s p))) ∧
        (∀ a, 2 * s.len.toNat ≤ a → t.obufAt a = none) ∧
        t = { s with obuf := t.obuf, olen := t.olen, cnt := s.len, err := .ok, vok := false }) ∧
    (s.off.toNat + s.len.toNat ≤ s.ilen → (∃ p < 2 * s.len.toNat, 9 < nibbleHighFirst s p) →
      exec .bcd2str s = .next (fail .bcdNibbleError s)) ∧
    (s.ilen < s.off.toNat + s.len.toNat → exec .bcd2str s = .next (fail .truncatedPayloadError s))

/-- R124, R122: STR2BCD. Digit p of the 2W digits is 0 in the padding at the left, and a character of the span after
it; two digits make a byte, the earlier one in the high nibble. -/
def Obligations.Str2bcdEncodesDigits : Prop :=
  ∀ (s : State) (n w : Nat) (d : Nat → Nat), n = s.len.toNat → w = s.val.toNat →
    (d = fun p => if p < 2 * w - n then 0 else spanByte s (p - (2 * w - n)) - 0x30) →
    (s.off.toNat + n ≤ s.ilen → w ≤ 2 * s.config.ibufCap → spanIsDigits s → n ≤ 2 * w →
      ∃ t, exec .str2bcd s = .next t ∧ t.olen = w ∧
        (∀ k < w, t.obufAt k = some (BitVec.ofNat 8 (16 * d (2 * k) + d (2 * k + 1)))) ∧
        (∀ a, w ≤ a → t.obufAt a = none) ∧
        t = { s with obuf := t.obuf, olen := t.olen, cnt := s.len, err := .ok, vok := false }) ∧
    (s.off.toNat + n ≤ s.ilen → (2 * s.config.ibufCap < w ∨ ¬ spanIsDigits s ∨ 2 * w < n) →
      exec .str2bcd s = .next (fail .valueOutOfRange s)) ∧
    (s.ilen < s.off.toNat + n → exec .str2bcd s = .next (fail .truncatedPayloadError s))

/-- R129, R125, R126: IMEI2BCD in both layouts. Plain: 16 digits with a leading 0 when there are 15, the earlier digit
in the high nibble. Swapped: a trailing 0xF when there are 15, the earlier digit in the low nibble. -/
def Obligations.Imei2bcdEncodesImei : Prop :=
  ∀ (s : State) (m : ImeiLayout) (n : Nat) (d : Nat → Nat) (accepted : Prop), n = s.len.toNat →
    (d = match m with
      | .plain => fun p => if p < 16 - n then 0 else spanByte s (p - (16 - n)) - 0x30
      | .swapped => fun p => if p < n then spanByte s p - 0x30 else 0xF) →
    (accepted ↔ (n = 15 ∨ n = 16) ∧ spanIsDigits s ∧ ¬ (m = .plain ∧ n = 16 ∧ spanByte s 0 = 0x30)) →
    (s.off.toNat + n ≤ s.ilen → accepted →
      ∃ t, exec (.imei2bcd m) s = .next t ∧ t.olen = 8 ∧
        (∀ k < 8, t.obufAt k = some (BitVec.ofNat 8 (match m with
          | .plain => 16 * d (2 * k) + d (2 * k + 1)
          | .swapped => 16 * d (2 * k + 1) + d (2 * k)))) ∧
        (∀ a, 8 ≤ a → t.obufAt a = none) ∧
        t = { s with obuf := t.obuf, olen := t.olen, cnt := s.len, err := .ok, vok := false }) ∧
    (s.off.toNat + n ≤ s.ilen → ¬ accepted → exec (.imei2bcd m) s = .next (fail .valueOutOfRange s)) ∧
    (s.ilen < s.off.toNat + n → exec (.imei2bcd m) s = .next (fail .truncatedPayloadError s))

/-- R130, R127, R128: BCD2IMEI in both layouts. Plain: exactly one leading 0 is dropped. Swapped: 0xF is accepted in
the last nibble only, where it is dropped. -/
def Obligations.Bcd2imeiDecodesImei : Prop :=
  ∀ (s : State) (m : ImeiLayout) (d : Nat → Nat),
    (d = match m with | .plain => nibbleHighFirst s | .swapped => nibbleLowFirst s) →
    ∀ drop : Prop, (drop ↔ match m with | .plain => d 0 = 0 | .swapped => d 15 = 0xF) →
    ∀ accepted : Prop, (accepted ↔ (∀ p < 15, d p ≤ 9) ∧ (d 15 ≤ 9 ∨ m = .swapped ∧ d 15 = 0xF)) →
    (s.off.toNat + 8 ≤ s.ilen → accepted →
      ∃ t, exec (.bcd2imei m) s = .next t ∧
        (drop → t.olen = 15) ∧ (¬ drop → t.olen = 16) ∧
        (∀ j < t.olen, t.obufAt j = some (BitVec.ofNat 8 (0x30 + d (if m = .plain ∧ t.olen = 15 then j + 1 else j)))) ∧
        (∀ a, t.olen ≤ a → t.obufAt a = none) ∧
        t = { s with obuf := t.obuf, olen := t.olen, cnt := 8#64, err := .ok, vok := false }) ∧
    (s.off.toNat + 8 ≤ s.ilen → ¬ accepted → exec (.bcd2imei m) s = .next (fail .bcdNibbleError s)) ∧
    (s.ilen < s.off.toNat + 8 → exec (.bcd2imei m) s = .next (fail .truncatedPayloadError s))

/-- R131 (b): every IMEI string that either layout accepts comes back. -/
def Obligations.ImeiRoundTrip : Prop :=
  ∀ (m : ImeiLayout) (str b : List Byte), imeiToBcd m str = .ok b → b.length = 8 ∧ bcdToImei m b = .ok str

/-- R131 (c): the BCD digit round trips. -/
def Obligations.BcdDigitsRoundTrip : Prop :=
  (∀ (str b : List Byte) (w : Nat), stringToBcdDigits str w = .ok b →
    bcdDigitsToString b = .ok (List.replicate (2 * w - str.length) 0x30#8 ++ str)) ∧
  (∀ str b : List Byte, bcdDigitsToString b = .ok str → stringToBcdDigits str b.length = .ok b)

/-! ### Checksums -/

/-- R141: the XOR-sum is the XOR of every byte: 0 on the empty span, the byte itself on one byte, the XOR of the parts
on a span of two parts, and the order of the bytes does not matter. -/
def Obligations.XorSumIsXorOfEveryByte : Prop :=
  xorSum [] = 0#8 ∧ (∀ b : Byte, xorSum [b] = b) ∧
  (∀ a b : List Byte, xorSum (a ++ b) = xorSum a ^^^ xorSum b) ∧
  (∀ a b : List Byte, a.Perm b → xorSum a = xorSum b)

/-- R158: the table-driven CRC-16/X25, and the CRC-8 with the default table of R153, compute what the bit-serial forms
compute. R152: for an arbitrary CRC8_TABLE, CRC-8 starts at 0xFF and takes one more byte `b` by the table's entry at
(CRC-8 so far) XOR b, entry i being row i/16, column i%16 (R153). -/
def Obligations.TableCrcEqualsBitSerial : Prop :=
  (∀ span : List Byte, crc16X25 span = crc16Serial span ∧ crc8 crc8DefaultTable span = crc8Serial span) ∧
  (∀ table : Crc8Table, crc8 table [] = 0xFF#8 ∧
    ∀ (span : List Byte) (b : Byte) (i : Nat), i = (crc8 table span ^^^ b).toNat →
      (table[i / 16]?.bind fun row => row[i % 16]?) = some (crc8 table (span ++ [b])))

/-- A span followed by its own checksum: 0 for the XOR-sum (R142), 0x0F47 for CRC-16 stored least significant byte
first (derived from R146), 0 for CRC-8 with a table that has 0 at index 0, such as the default (R155). -/
def Obligations.OwnChecksumResidues : Prop :=
  ∀ (span : List Byte) (table : Crc8Table),
    xorSum (span ++ [xorSum span]) = 0#8 ∧
    crc16X25 (span ++ leBytes (crc16X25 span).toNat 2) = 0x0F47#16 ∧
    (crc8Lookup table 0#8 = 0#8 → crc8 table (span ++ [crc8 table span]) = 0#8) ∧
    crc8Lookup crc8DefaultTable 0#8 = 0#8

/-- R146, R152: changing one byte of a span changes its CRC-16, its CRC-8 with the default table, and its XOR-sum. -/
def Obligations.OneByteChangeIsDetected : Prop :=
  ∀ (front back : List Byte) (x y : Byte), x ≠ y →
    crc16X25 (front ++ x :: back) ≠ crc16X25 (front ++ y :: back) ∧
    crc8 crc8DefaultTable (front ++ x :: back) ≠ crc8 crc8DefaultTable (front ++ y :: back) ∧
    xorSum (front ++ x :: back) ≠ xorSum (front ++ y :: back)

/-- R157: the results on the empty span, CRC-8 whatever the table. -/
def Obligations.EmptySpanChecksums : Prop :=
  xorSum [] = 0x00#8 ∧ crc16X25 [] = 0x0000#16 ∧ ∀ table : Crc8Table, crc8 table [] = 0xFF#8

/-- R142, R148, R154: XORC, C16C and C8C. -/
def Obligations.ComputeCommandsGiveChecksum : Prop :=
  ∀ (s : State) (i : Instr) (c : Nat),
    ((i = .xorc ∧ c = (xorSum (s.memRead s.off.toNat s.len.toNat)).toNat) ∨
      (i = .c16c ∧ c = (crc16X25 (s.memRead s.off.toNat s.len.toNat)).toNat) ∨
      (i = .c8c ∧ c = (crc8 s.config.crc8Table (s.memRead s.off.toNat s.len.toNat)).toNat)) →
    (s.off.toNat + s.len.toNat ≤ s.ilen →
      ∃ t, exec i s = .next t ∧ t.res.toNat = c ∧
        t = { s with res := t.res, cnt := s.len, err := .ok, vok := false }) ∧
    (s.ilen < s.off.toNat + s.len.toNat → exec i s = .next (fail .truncatedPayloadError s))

/-- R143, R149, R155, R144: XORV, C16V and C8V. The comparison is with the whole of CLAIM; a mismatch is no failure. -/
def Obligations.VerifyCommandsCompareClaim : Prop :=
  ∀ (s : State) (i : Instr) (c : Nat),
    ((i = .xorv ∧ c = (xorSum (s.memRead s.off.toNat s.len.toNat)).toNat) ∨
      (i = .c16v ∧ c = (crc16X25 (s.memRead s.off.toNat s.len.toNat)).toNat) ∨
      (i = .c8v ∧ c = (crc8 s.config.crc8Table (s.memRead s.off.toNat s.len.toNat)).toNat)) →
    (s.off.toNat + s.len.toNat ≤ s.ilen →
      ∃ t, exec i s = .next t ∧ t.res.toNat = c ∧ (t.vok = true ↔ c = s.claim.toNat) ∧
        t = { s with res := t.res, cnt := s.len, err := .ok, vok := t.vok }) ∧
    (s.ilen < s.off.toNat + s.len.toNat → exec i s = .next (fail .truncatedPayloadError s))

/-- R156: computing a checksum, copying RES to CLAIM and verifying the same span sets VOK, for every span inside the
buffer. First as executions from one state, unspecified bytes included; then as the four host actions (issue the
compute word, read RES, write what was read to CLAIM, issue the verify word) on a span whose bytes are specified, since
the free values differ from step to step (log entry 2). -/
def Obligations.ComputedChecksumVerifies : Prop :=
  (∀ (s : State) (compute verify : Instr),
    (compute, verify) ∈ [(Instr.xorc, Instr.xorv), (.c16c, .c16v), (.c8c, .c8v)] →
    s.off.toNat + s.len.toNat ≤ s.ilen →
    ∃ t u, exec compute s = .next t ∧ exec verify { t with claim := t.res } = .next u ∧
      u.vok = true ∧ u.err = .ok ∧ u.res = t.res) ∧
  (∀ (s : State) (compute verify : CmdWord) (claimed : Nat) (rest : List HostAction),
    (compute, verify) ∈ [(0x00000010#32, 0x00000011#32), (0x00000012#32, 0x00000013#32),
      (0x00000014#32, 0x00000015#32)] →
    s.pending = .issue compute :: .read (.reg .res) :: .writeReg .claim claimed :: .issue verify :: rest →
    s.off.toNat + s.len.toNat ≤ s.ilen → (∀ k < s.len.toNat, (s.ibufAt (s.off.toNat + k)).isSome = true) →
    ∃ t r, step s = .next t ∧ step t = .next r ∧ r.readPort = some t.res ∧
      (claimed = t.res.toNat → ∃ u v, step r = .next u ∧ step u = .next v ∧
        v.vok = true ∧ v.err = .ok ∧ v.res = t.res ∧ v.pending = rest))

/-! ### Bitmask header -/

/-- R174, R172, R171: HDRP on a header of `k + 1` bytes at OFF that ends before ILEN: CNT counts its bytes, and IDL
lists, strictly rising, exactly the IDs `7*byteIndex + bitIndex + 1` whose presence bit is set; entries from IDN on are
unspecified. When no terminating byte comes before ILEN, only STATUS changes. ILEN is at most 9362 as R5 and R32
require (State.Inv). -/
def Obligations.HdrpListsPresentFields : Prop :=
  ∀ s : State, s.ilen ≤ 9362 →
    (∀ k, s.off.toNat + k < s.ilen → spanByte s k < 128 → (∀ j < k, 128 ≤ spanByte s j) →
      ∃ (t : State) (ids : List Nat), exec .hdrp s = .next t ∧ t.cnt.toNat = k + 1 ∧ t.idn = ids.length ∧
        ids.Pairwise (· < ·) ∧
        (∀ id, id ∈ ids ↔ 1 ≤ id ∧ (id - 1) / 7 ≤ k ∧ spanByte s ((id - 1) / 7) / 2 ^ ((id - 1) % 7) % 2 = 1) ∧
        (∀ j, (t.idlAt j).map BitVec.toNat = ids[j]?) ∧
        t = { s with idl := t.idl, idn := t.idn, cnt := t.cnt, err := .ok, vok := false }) ∧
    ((∀ k, s.off.toNat + k < s.ilen → 128 ≤ spanByte s k) →
      exec .hdrp s = .next (fail .malformedHeaderError s))

/-- R175, R173: HDRB. The header has the least length that reaches every ID, and at least one byte; the continuation
bit is set on every byte except the last; a presence bit is set exactly when its ID is in IDL[0 .. IDN). An ID of 0, or
one that no header of OBUF_CAP bytes reaches, changes nothing but STATUS. -/
def Obligations.HdrbBuildsMinimalHeader : Prop :=
  ∀ s : State, s.config.wf = true →
    ((∀ j < s.idn, 1 ≤ (s.idlEntry j).toNat ∧ (s.idlEntry j).toNat ≤ 7 * (2 * s.config.ibufCap)) →
      ∃ t, exec .hdrb s = .next t ∧ 1 ≤ t.olen ∧
        (∀ j < s.idn, (s.idlEntry j).toNat ≤ 7 * t.olen) ∧
        (1 < t.olen → ∃ j < s.idn, 7 * (t.olen - 1) < (s.idlEntry j).toNat) ∧
        (∀ k < t.olen, ∃ b, t.obufAt k = some b ∧ (b.getLsbD 7 = true ↔ k + 1 < t.olen) ∧
          ∀ bit < 7, (b.getLsbD bit = true ↔ ∃ j < s.idn, (s.idlEntry j).toNat = 7 * k + bit + 1)) ∧
        (∀ a, t.olen ≤ a → t.obufAt a = none) ∧
        t = { s with obuf := t.obuf, olen := t.olen, err := .ok, vok := false }) ∧
    ((∃ j < s.idn, (s.idlEntry j).toNat = 0 ∨ 7 * (2 * s.config.ibufCap) < (s.idlEntry j).toNat) →
      exec .hdrb s = .next (fail .valueOutOfRange s))

/-- R176: a header built from a strictly increasing list of IDs from 1 on parses back to that list, whatever bytes
follow it, and the bytes consumed equal the bytes built. -/
def Obligations.HeaderRoundTrip : Prop :=
  ∀ (ids : List Nat) (rest : List Byte), ids.Pairwise (· < ·) → (∀ id ∈ ids, 1 ≤ id) →
    ∃ h, buildBitmaskHeader ids = .ok h ∧ parseBitmaskHeader (h ++ rest) 0 = .ok (ids, h.length)

/-! ### Frame header parser and checksum gate -/

/-- R188, R187: FHDR, every outcome in the order tested. -/
def Obligations.FhdrParsesFrameHeader : Prop :=
  ∀ (s : State) (body : Nat), body = s.off.toNat + pren s + lengthBytes s →
    (¬ fcfgIsLegal s → exec .fhdr s = .next (fail .illegalCommand s)) ∧
    (fcfgIsLegal s → s.ilen < s.off.toNat + pren s → exec .fhdr s = .next (failFrame .truncatedPayloadError s)) ∧
    (fcfgIsLegal s → s.off.toNat + pren s ≤ s.ilen → ¬ preambleMatches s →
      exec .fhdr s = .next (failFrame .invalidPreamble s)) ∧
    (fcfgIsLegal s → s.off.toNat + pren s ≤ s.ilen → preambleMatches s → s.ilen < body →
      exec .fhdr s = .next (failFrame .truncatedPayloadError s)) ∧
    (fcfgIsLegal s → preambleMatches s → body ≤ s.ilen → s.ilen - body < declaredLength s + ladj s →
      exec .fhdr s = .next (failFrame .truncatedPayloadError s)) ∧
    (fcfgIsLegal s → preambleMatches s → body ≤ s.ilen → declaredLength s + ladj s < s.ilen - body →
      exec .fhdr s = .next (failFrame .lengthMismatch s)) ∧
    (fcfgIsLegal s → preambleMatches s → body ≤ s.ilen → s.ilen - body = declaredLength s + ladj s →
      ∃ t, exec .fhdr s = .next t ∧ t.res.toNat = declaredLength s ∧ t.cnt.toNat = pren s + lengthBytes s ∧
        t = { s with res := t.res, cnt := t.cnt, fst := .readingBody, err := .ok, vok := false })

/-- R190, R189: FCHK, every outcome in the order tested. -/
def Obligations.FchkGivesVerdict : Prop :=
  ∀ s : State,
    (¬ fcfgIsLegal s → exec .fchk s = .next (fail .illegalCommand s)) ∧
    (fcfgIsLegal s → s.fst ≠ .readingBody → exec .fchk s = .next (fail .badState s)) ∧
    (fcfgIsLegal s → s.fst = .readingBody → s.ilen < s.off.toNat + s.len.toNat →
      exec .fchk s = .next (fail .truncatedPayloadError s)) ∧
    (fcfgIsLegal s → s.fst = .readingBody → s.off.toNat + s.len.toNat ≤ s.ilen →
      ∃ t, exec .fchk s = .next t ∧ t.res.toNat = frameChecksum s ∧
        (frameChecksum s = s.claim.toNat → t.vok = true ∧ t.err = .ok ∧ t.fst = .decoded) ∧
        (frameChecksum s ≠ s.claim.toNat → t.vok = false ∧ t.err = .checksumMismatch ∧ t.err.code = 4#4 ∧
          (mandatory s → t.fst = .rejected) ∧ (¬ mandatory s → t.fst = .decoded)) ∧
        t = { s with res := t.res, cnt := s.len, vok := t.vok, err := t.err, fst := t.fst })

/-- R186, R191, R28: FST changes only by FHDR, FCHK and Reset, and only along the transitions of R186. -/
def Obligations.FrameStateTransitions : Prop :=
  ∀ (s t : State) (a : HostAction) (rest : List HostAction),
    s.pending = a :: rest → step s = .next t → t.fst ≠ s.fst →
    (a = .reset ∧ t.fst = .awaitingPreamble) ∨
    (a = .issue 0x00000030#32 ∧ fcfgIsLegal s ∧
      (t.fst = .readingBody ∧ t.err = .ok ∨
        t.fst = .rejected ∧ t.err ∈ [ErrCode.invalidPreamble, .truncatedPayloadError, .lengthMismatch])) ∨
    (a = .issue 0x00000031#32 ∧ fcfgIsLegal s ∧ s.fst = .readingBody ∧
      (t.fst = .decoded ∧ t.err = .ok ∨
        t.fst = .decoded ∧ t.err = .checksumMismatch ∧ ¬ mandatory s ∨
        t.fst = .rejected ∧ t.err = .checksumMismatch ∧ mandatory s))

/-- R187 and the source's truncation safety: a frame that FHDR accepts, cut at any byte boundary, gives
TruncatedPayloadError, and followed by any further bytes gives LengthMismatch; Rejected either way. -/
def Obligations.FrameLengthIsExact : Prop :=
  ∀ (s t : State) (n : Nat), exec .fhdr s = .next t → t.err = .ok →
    (n < s.ilen → exec .fhdr { s with ilen := n } =
      .next (failFrame .truncatedPayloadError { s with ilen := n })) ∧
    (s.ilen < n → exec .fhdr { s with ilen := n } =
      .next (failFrame .lengthMismatch { s with ilen := n }))

/-- R190: FCHK is legal only once per FHDR: after one that ran, a second gives BadState and changes nothing else. -/
def Obligations.SecondFchkIsBadState : Prop :=
  ∀ s t : State, fcfgIsLegal s → s.fst = .readingBody → s.off.toNat + s.len.toNat ≤ s.ilen →
    exec .fchk s = .next t → exec .fchk t = .next (fail .badState t)

/-! ### Whole-machine rules -/

/-- R205, R231: every command, in every state, ends in a next state. -/
def Obligations.EveryCommandCompletes : Prop := ∀ (i : Instr) (s : State), ∃ t, exec i s = .next t

/-- R202: a failing command changes nothing but ERR and VOK, and FST for FHDR; the one command that writes results
together with a code is FCHK on a checksum mismatch. -/
def Obligations.FailureChangesOnlyStatus : Prop :=
  ∀ (i : Instr) (s t : State), exec i s = .next t → t.err ≠ .ok →
    (i = .fchk ∧ t.err = .checksumMismatch) ∨
    (t = { s with err := t.err, vok := false, fst := t.fst } ∧
      (t.fst = s.fst ∨ i = .fhdr ∧ t.fst = .rejected))

/-- R21, R22: which command writes which part of the state; the operand and configuration registers, ILEN and IBUF are
written by none. Buffers are compared read by read as well. -/
def Obligations.CommandFrame : Prop :=
  ∀ (i : Instr) (s t : State), exec i s = .next t →
    sameOperands s t ∧
    (i.mnemonic ∉ resWriters → t.res = s.res) ∧
    (i.mnemonic ∉ cntWriters → t.cnt = s.cnt) ∧
    (i.mnemonic ∉ obufWriters → t.olen = s.olen ∧ t.obuf = s.obuf ∧ ∀ a, t.obufAt a = s.obufAt a) ∧
    (i.mnemonic ≠ "HDRP" → t.idn = s.idn ∧ t.idl = s.idl ∧ ∀ a, t.idlAt a = s.idlAt a) ∧
    (i.mnemonic ∉ ["FHDR", "FCHK"] → t.fst = s.fst)

/-- R36, R11: after a byte-producing command OBUF holds specified bytes exactly at [0, OLEN) when the command
succeeded, and reads everywhere as before when it failed. -/
def Obligations.OutputBufferFrame : Prop :=
  ∀ (i : Instr) (s t : State), i.mnemonic ∈ obufWriters → exec i s = .next t →
    (t.err = .ok → ∀ a, (t.obufAt a).isSome = true ↔ a < t.olen) ∧
    (t.err ≠ .ok → t.olen = s.olen ∧ ∀ a, t.obufAt a = s.obufAt a)

/-- R53: what lies in IBUF at and above ILEN has no effect on any command. -/
def Obligations.NoReadAtOrAboveIlen : Prop :=
  ∀ (i : Instr) (s : State) (other : List Host.Cell),
    (∀ a < s.ilen, Memory.lookup other a = s.ibufAt a) →
    exec i { s with ibuf := other } = mapNext (fun t => { t with ibuf := other }) (exec i s)

/-- R20, R30, R31: a command that the "Read by" column does not list for an operand register does not depend on it; FCFG
is read only by FHDR and FCHK, FPRE only by FHDR. -/
def Obligations.UnlistedOperandsHaveNoEffect : Prop :=
  ∀ (i : Instr) (s : State) (v : Word) (f : CmdWord),
    (i.mnemonic ∈ ["WRINT", "WRF32LE", "HDRB"] →
      exec i { s with off := v } = mapNext (fun t => { t with off := v }) (exec i s)) ∧
    (i.mnemonic ∉ ["BCD2STR", "STR2BCD", "IMEI2BCD", "XORC", "XORV", "C16C", "C16V", "C8C", "C8V", "FCHK"] →
      exec i { s with len := v } = mapNext (fun t => { t with len := v }) (exec i s)) ∧
    (i.mnemonic ∉ ["WRINT", "WRF32LE", "STR2BCD"] →
      exec i { s with val := v } = mapNext (fun t => { t with val := v }) (exec i s)) ∧
    (i.mnemonic ∉ verifiers →
      exec i { s with claim := v } = mapNext (fun t => { t with claim := v }) (exec i s)) ∧
    (i.mnemonic ∉ ["FHDR", "FCHK"] →
      exec i { s with fcfg := f } = mapNext (fun t => { t with fcfg := f }) (exec i s)) ∧
    (i.mnemonic ≠ "FHDR" →
      exec i { s with fpre := f } = mapNext (fun t => { t with fpre := f }) (exec i s))

/-- R31: bytes of FPRE at positions PREN and above are ignored. -/
def Obligations.UnusedPreambleBytesIgnored : Prop :=
  ∀ (s : State) (p : CmdWord), p.toNat % 2 ^ (8 * pren s) = s.fpre.toNat % 2 ^ (8 * pren s) →
    exec .fhdr { s with fpre := p } = mapNext (fun t => { t with fpre := p }) (exec .fhdr s)

/-- R57: a command executed again with no host write in between changes nothing more, FCHK apart (which reads the FST
it writes). First as two executions with the free values held, unspecified bytes included; then as two Issue steps of
one word, legal or not, from a state whose inputs are specified, since the free values differ from step to step (log
entry 2): the second changes only the model's own queue and counter. -/
def Obligations.CommandsAreIdempotent : Prop :=
  (∀ (i : Instr) (s t : State), i ≠ .fchk → exec i s = .next t → exec i t = .next t) ∧
  (∀ (s : State) (w : CmdWord) (rest : List HostAction),
    s.pending = .issue w :: .issue w :: rest → w ≠ 0x00000031#32 → inputsSpecified s →
    ∃ t, step s = .next t ∧ step t = .next { t with pending := rest, freeCtr := t.freeCtr + 1 })

/-- R27: after a command VOK is 1 exactly when the command verifies a checksum, completed, and what it computed equals
the whole of CLAIM; an illegal command word clears it; no command reads it. -/
def Obligations.VokMeansClaimMatched : Prop :=
  (∀ (i : Instr) (s t : State), exec i s = .next t →
    (t.vok = true ↔ i.mnemonic ∈ verifiers ∧ t.err = .ok ∧ t.res = s.claim)) ∧
  (∀ (w : CmdWord) (s t : State), illegalWord w → issue w s = .next t → t.vok = false) ∧
  (∀ (i : Instr) (s : State) (b : Bool), exec i { s with vok := b } = exec i s)

/-- R200, R201: which commands raise which code, and that the two reserved codes are never raised. -/
def Obligations.ErrorCodesRaisedBy : Prop :=
  ∀ (i : Instr) (s t : State), exec i s = .next t →
    (t.err = .invalidPreamble → i = .fhdr) ∧
    (t.err = .lengthMismatch → i = .fhdr) ∧
    (t.err = .checksumMismatch → i = .fchk) ∧
    (t.err = .truncatedPayloadError → i.mnemonic ∈ truncatable) ∧
    (t.err = .malformedHeaderError → i = .hdrp) ∧
    (t.err = .valueOutOfRange → i.mnemonic ∈ ["WRINT", "WRF32LE", "STR2BCD", "IMEI2BCD", "HDRB"]) ∧
    (t.err = .bcdNibbleError → i.mnemonic ∈ ["BCD2STR", "BCD2IMEI"]) ∧
    (t.err = .badState → i = .fchk) ∧
    (t.err = .illegalCommand → i = .fhdr ∨ i = .fchk) ∧
    t.err ≠ .malformedHexInput ∧ t.err ≠ .unknownFieldError

/-- R25, R28, R200: the word STATUS reads as, and the numbers of its codes. -/
def Obligations.StatusWordLayout : Prop :=
  (∀ s : State, s.status.extractLsb' 0 4 = s.err.code ∧ s.status.getLsbD 4 = s.vok ∧
    s.status.extractLsb' 5 3 = s.fst.code ∧ s.status.extractLsb' 8 24 = 0#24) ∧
  ([ErrCode.ok, .malformedHexInput, .invalidPreamble, .lengthMismatch, .checksumMismatch, .truncatedPayloadError,
    .unknownFieldError, .malformedHeaderError, .valueOutOfRange, .bcdNibbleError, .badState].map ErrCode.code
      = (List.range 11).map (BitVec.ofNat 4)) ∧
  ErrCode.illegalCommand.code = 15#4 ∧
  ([FrameState.awaitingPreamble, .readingLength, .readingBody, .verifyingChecksum, .decoded, .rejected].map
    FrameState.code = (List.range 6).map (BitVec.ofNat 3))

/-- The invariant of Safety.lean holds right after reset, for every set of parameters that meets R5. -/
def Obligations.InvariantAtReset : Prop :=
  State.reset.Inv ∧ ∀ c : Config, c.wf = true → ({ State.reset with config := c } : State).Inv

/-- Every step keeps the invariant: the lengths and buffers stay inside the capacities (R5, R32 to R37, R54), the
buffers keep their canonical form, OBUF holds exactly OLEN bytes (R36), STATUS shows no transient or reserved code
(R28, R201), VOK never stands beside an error (R27). -/
def Obligations.EveryStepKeepsInvariant : Prop := ∀ s t : State, s.Inv → step s = .next t → t.Inv

/-- R205, R226, R231: a run in which the host keeps to the actions of R60, in numbers (`hostMay`; `State.withinContract`
says the same), never stops, for any number of steps, and takes one action a step until none is left; the parameters
never change. -/
def Obligations.ContractualRunNeverStops : Prop :=
  ∀ s : State, (s.withinContract = true ↔ ∀ a ∈ s.pending, hostMay s.config.ibufCap a) ∧
    ((∀ a ∈ s.pending, hostMay s.config.ibufCap a) → ∀ n : Nat,
      ∃ t, Sys2Proof.core.run n s = .next t ∧ t.pending = s.pending.drop n ∧ t.config = s.config)
end

