-- ==== Sys2Proof/Laws/Memory.lean ====
section
/-! SUPPORT. The laws of the sorted-list buffers: a read after a write, the canonical form that every memory operation
keeps, and which indices a buffer lists. -/

namespace Sys2Proof.Machine

variable {w : Nat}

@[simp] theorem Memory.lookup_nil (i : Nat) : Memory.lookup ([] : List (Nat × BitVec w)) i = none := rfl

theorem Memory.lookup_cons (c : Nat × BitVec w) (m : List (Nat × BitVec w)) (i : Nat) :
    Memory.lookup (c :: m) i = if c.1 = i then some c.2 else Memory.lookup m i := rfl

/-- A read after a write to the same index gives the value written. -/
@[simp] theorem Memory.lookup_insert_self (m : List (Nat × BitVec w)) (i : Nat) (v : BitVec w) :
    Memory.lookup (Memory.insert m i v) i = some v := by
  induction m with
  | nil => simp [Memory.insert, Memory.lookup]
  | cons c rest ih =>
    obtain ⟨a, b⟩ := c
    unfold Memory.insert
    split
    · simp [Memory.lookup]
    split
    · simp [Memory.lookup]
    · have : a ≠ i := by omega
      simp [Memory.lookup, this, ih]

/-- A write leaves every other index alone. -/
theorem Memory.lookup_insert_of_ne (m : List (Nat × BitVec w)) {i j : Nat} (v : BitVec w) (h : j ≠ i) :
    Memory.lookup (Memory.insert m i v) j = Memory.lookup m j := by
  induction m with
  | nil => simp [Memory.insert, Memory.lookup, h.symm]
  | cons c rest ih =>
    obtain ⟨a, b⟩ := c
    unfold Memory.insert
    split
    · simp [Memory.lookup, h.symm]
    split
    · rename_i _ hi
      subst hi
      simp [Memory.lookup, h.symm]
    · simp [Memory.lookup, ih]

/-- The canonical form as a chain: the head is below every later index. -/
theorem Memory.wf_cons_iff (c : Nat × BitVec w) (m : List (Nat × BitVec w)) :
    Memory.wf (c :: m) = true ↔ (∀ d ∈ m, c.1 < d.1) ∧ Memory.wf m = true := by
  induction m generalizing c with
  | nil => simp [Memory.wf]
  | cons d rest ih =>
    obtain ⟨a, x⟩ := c
    obtain ⟨b, y⟩ := d
    simp only [Memory.wf, Bool.and_eq_true, decide_eq_true_eq, List.mem_cons, forall_eq_or_imp]
    constructor
    · rintro ⟨hab, hwf⟩
      exact ⟨⟨hab, fun e he => Nat.lt_trans hab (((ih (b, y)).1 hwf).1 e he)⟩, hwf⟩
    · rintro ⟨⟨hab, -⟩, hwf⟩
      exact ⟨hab, hwf⟩

/-- The indices listed after a write are those listed before and the one written. -/
theorem Memory.mem_insert {m : List (Nat × BitVec w)} {i : Nat} {v : BitVec w} {c : Nat × BitVec w}
    (h : c ∈ Memory.insert m i v) : c.1 = i ∨ c ∈ m := by
  induction m with
  | nil => simp [Memory.insert] at h; simp [h]
  | cons d rest ih =>
    obtain ⟨a, b⟩ := d
    unfold Memory.insert at h
    split at h
    · rcases List.mem_cons.1 h with rfl | h
      · exact .inl rfl
      · exact .inr h
    split at h
    · rcases List.mem_cons.1 h with rfl | h
      · exact .inl rfl
      · exact .inr (List.mem_cons_of_mem _ h)
    · rcases List.mem_cons.1 h with rfl | h
      · exact .inr List.mem_cons_self
      · exact (ih h).imp id (List.mem_cons_of_mem _)

/-- A write keeps the canonical form. -/
theorem Memory.wf_insert {m : List (Nat × BitVec w)} (i : Nat) (v : BitVec w) (h : Memory.wf m = true) :
    Memory.wf (Memory.insert m i v) = true := by
  induction m with
  | nil => rfl
  | cons d rest ih =>
    obtain ⟨a, b⟩ := d
    have hd := (Memory.wf_cons_iff _ _).1 h
    unfold Memory.insert
    split
    · rename_i hlt
      refine (Memory.wf_cons_iff _ _).2 ⟨?_, h⟩
      intro e he
      rcases List.mem_cons.1 he with rfl | he
      · exact hlt
      · exact Nat.lt_trans hlt (hd.1 e he)
    split
    · rename_i _ heq
      exact (Memory.wf_cons_iff _ _).2 ⟨fun e he => heq ▸ hd.1 e he, hd.2⟩
    · rename_i hlt hne
      refine (Memory.wf_cons_iff _ _).2 ⟨fun e he => ?_, ih hd.2⟩
      rcases Memory.mem_insert he with h' | h'
      · show a < e.1
        omega
      · exact hd.1 e h'

/-- The indices `Memory.listFrom` lists. -/
theorem Memory.listFrom_indices (i : Nat) (vs : List (BitVec w)) :
    (Memory.listFrom i vs).map Prod.fst = (List.range vs.length).map (i + ·) := by
  induction vs generalizing i with
  | nil => rfl
  | cons v vs ih =>
    rw [Memory.listFrom, List.map_cons, ih, List.length_cons, List.range_succ_eq_map, List.map_cons, List.map_map]
    simp [Function.comp_def, Nat.add_assoc, Nat.add_comm 1]

theorem Memory.mem_listFrom {i : Nat} {vs : List (BitVec w)} {c : Nat × BitVec w}
    (h : c ∈ Memory.listFrom i vs) : i ≤ c.1 ∧ c.1 < i + vs.length := by
  have := List.mem_map_of_mem (f := Prod.fst) h
  rw [Memory.listFrom_indices, List.mem_map] at this
  obtain ⟨k, hk, hc⟩ := this
  have := List.mem_range.1 hk
  omega

/-- A freshly written buffer is in canonical form. -/
theorem Memory.wf_listFrom (i : Nat) (vs : List (BitVec w)) : Memory.wf (Memory.listFrom i vs) = true := by
  induction vs generalizing i with
  | nil => rfl
  | cons v vs ih =>
    refine (Memory.wf_cons_iff _ _).2 ⟨fun d hd => ?_, ih _⟩
    have := (Memory.mem_listFrom hd).1
    show i < d.1
    omega

/-- What a freshly written buffer holds. -/
theorem Memory.lookup_listFrom (i : Nat) (vs : List (BitVec w)) (j : Nat) :
    Memory.lookup (Memory.listFrom i vs) j = if i ≤ j then vs[j - i]? else none := by
  induction vs generalizing i with
  | nil => simp [Memory.listFrom]
  | cons v vs ih =>
    rw [Memory.listFrom, Memory.lookup_cons, ih]
    by_cases h : i = j
    · subst h; simp
    · by_cases h' : i ≤ j
      · have h1 : i + 1 ≤ j := by omega
        have h2 : j - i = (j - (i + 1)) + 1 := by omega
        simp [h, h', h1, h2]
      · have h1 : ¬ i + 1 ≤ j := by omega
        simp [h, h', h1]

end Sys2Proof.Machine
end

