-- ==== Sys2Proof/Laws/State.lean ====
section
/-! SUPPORT. What each update of State leaves in the fields it writes and in the others: one lemma per field per update,
true by rfl. -/

namespace Sys2Proof.Machine

@[simp] theorem raise_off (e : ErrCode) (s : State) : (raise e s).off = s.off := rfl
@[simp] theorem raise_len (e : ErrCode) (s : State) : (raise e s).len = s.len := rfl
@[simp] theorem raise_val (e : ErrCode) (s : State) : (raise e s).val = s.val := rfl
@[simp] theorem raise_claim (e : ErrCode) (s : State) : (raise e s).claim = s.claim := rfl
@[simp] theorem raise_res (e : ErrCode) (s : State) : (raise e s).res = s.res := rfl
@[simp] theorem raise_cnt (e : ErrCode) (s : State) : (raise e s).cnt = s.cnt := rfl
@[simp] theorem raise_err (e : ErrCode) (s : State) : (raise e s).err = e := rfl
@[simp] theorem raise_vok (e : ErrCode) (s : State) : (raise e s).vok = false := rfl
@[simp] theorem raise_fst (e : ErrCode) (s : State) : (raise e s).fst = s.fst := rfl
@[simp] theorem raise_fcfg (e : ErrCode) (s : State) : (raise e s).fcfg = s.fcfg := rfl
@[simp] theorem raise_fpre (e : ErrCode) (s : State) : (raise e s).fpre = s.fpre := rfl
@[simp] theorem raise_ilen (e : ErrCode) (s : State) : (raise e s).ilen = s.ilen := rfl
@[simp] theorem raise_olen (e : ErrCode) (s : State) : (raise e s).olen = s.olen := rfl
@[simp] theorem raise_idn (e : ErrCode) (s : State) : (raise e s).idn = s.idn := rfl
@[simp] theorem raise_ibuf (e : ErrCode) (s : State) : (raise e s).ibuf = s.ibuf := rfl
@[simp] theorem raise_obuf (e : ErrCode) (s : State) : (raise e s).obuf = s.obuf := rfl
@[simp] theorem raise_idl (e : ErrCode) (s : State) : (raise e s).idl = s.idl := rfl
@[simp] theorem raise_config (e : ErrCode) (s : State) : (raise e s).config = s.config := rfl
@[simp] theorem raise_pending (e : ErrCode) (s : State) : (raise e s).pending = s.pending := rfl
@[simp] theorem raise_readPort (e : ErrCode) (s : State) : (raise e s).readPort = s.readPort := rfl
@[simp] theorem raise_freeCtr (e : ErrCode) (s : State) : (raise e s).freeCtr = s.freeCtr := rfl

@[simp] theorem succeed_off (s : State) : (succeed s).off = s.off := rfl
@[simp] theorem succeed_len (s : State) : (succeed s).len = s.len := rfl
@[simp] theorem succeed_val (s : State) : (succeed s).val = s.val := rfl
@[simp] theorem succeed_claim (s : State) : (succeed s).claim = s.claim := rfl
@[simp] theorem succeed_res (s : State) : (succeed s).res = s.res := rfl
@[simp] theorem succeed_cnt (s : State) : (succeed s).cnt = s.cnt := rfl
@[simp] theorem succeed_err (s : State) : (succeed s).err = .ok := rfl
@[simp] theorem succeed_vok (s : State) : (succeed s).vok = false := rfl
@[simp] theorem succeed_fst (s : State) : (succeed s).fst = s.fst := rfl
@[simp] theorem succeed_fcfg (s : State) : (succeed s).fcfg = s.fcfg := rfl
@[simp] theorem succeed_fpre (s : State) : (succeed s).fpre = s.fpre := rfl
@[simp] theorem succeed_ilen (s : State) : (succeed s).ilen = s.ilen := rfl
@[simp] theorem succeed_olen (s : State) : (succeed s).olen = s.olen := rfl
@[simp] theorem succeed_idn (s : State) : (succeed s).idn = s.idn := rfl
@[simp] theorem succeed_ibuf (s : State) : (succeed s).ibuf = s.ibuf := rfl
@[simp] theorem succeed_obuf (s : State) : (succeed s).obuf = s.obuf := rfl
@[simp] theorem succeed_idl (s : State) : (succeed s).idl = s.idl := rfl
@[simp] theorem succeed_config (s : State) : (succeed s).config = s.config := rfl
@[simp] theorem succeed_pending (s : State) : (succeed s).pending = s.pending := rfl
@[simp] theorem succeed_readPort (s : State) : (succeed s).readPort = s.readPort := rfl
@[simp] theorem succeed_freeCtr (s : State) : (succeed s).freeCtr = s.freeCtr := rfl

@[simp] theorem memWrite_off (v : List Byte) (s : State) : (s.memWrite v).off = s.off := rfl
@[simp] theorem memWrite_len (v : List Byte) (s : State) : (s.memWrite v).len = s.len := rfl
@[simp] theorem memWrite_val (v : List Byte) (s : State) : (s.memWrite v).val = s.val := rfl
@[simp] theorem memWrite_claim (v : List Byte) (s : State) : (s.memWrite v).claim = s.claim := rfl
@[simp] theorem memWrite_res (v : List Byte) (s : State) : (s.memWrite v).res = s.res := rfl
@[simp] theorem memWrite_cnt (v : List Byte) (s : State) : (s.memWrite v).cnt = s.cnt := rfl
@[simp] theorem memWrite_err (v : List Byte) (s : State) : (s.memWrite v).err = s.err := rfl
@[simp] theorem memWrite_vok (v : List Byte) (s : State) : (s.memWrite v).vok = s.vok := rfl
@[simp] theorem memWrite_fst (v : List Byte) (s : State) : (s.memWrite v).fst = s.fst := rfl
@[simp] theorem memWrite_fcfg (v : List Byte) (s : State) : (s.memWrite v).fcfg = s.fcfg := rfl
@[simp] theorem memWrite_fpre (v : List Byte) (s : State) : (s.memWrite v).fpre = s.fpre := rfl
@[simp] theorem memWrite_ilen (v : List Byte) (s : State) : (s.memWrite v).ilen = s.ilen := rfl
@[simp] theorem memWrite_olen (v : List Byte) (s : State) : (s.memWrite v).olen = v.length := rfl
@[simp] theorem memWrite_idn (v : List Byte) (s : State) : (s.memWrite v).idn = s.idn := rfl
@[simp] theorem memWrite_ibuf (v : List Byte) (s : State) : (s.memWrite v).ibuf = s.ibuf := rfl
@[simp] theorem memWrite_obuf (v : List Byte) (s : State) : (s.memWrite v).obuf = Memory.listFrom 0 v := rfl
@[simp] theorem memWrite_idl (v : List Byte) (s : State) : (s.memWrite v).idl = s.idl := rfl
@[simp] theorem memWrite_config (v : List Byte) (s : State) : (s.memWrite v).config = s.config := rfl
@[simp] theorem memWrite_pending (v : List Byte) (s : State) : (s.memWrite v).pending = s.pending := rfl
@[simp] theorem memWrite_readPort (v : List Byte) (s : State) : (s.memWrite v).readPort = s.readPort := rfl
@[simp] theorem memWrite_freeCtr (v : List Byte) (s : State) : (s.memWrite v).freeCtr = s.freeCtr := rfl

@[simp] theorem idlWrite_off (ids : List Nat) (s : State) : (s.idlWrite ids).off = s.off := rfl
@[simp] theorem idlWrite_len (ids : List Nat) (s : State) : (s.idlWrite ids).len = s.len := rfl
@[simp] theorem idlWrite_val (ids : List Nat) (s : State) : (s.idlWrite ids).val = s.val := rfl
@[simp] theorem idlWrite_claim (ids : List Nat) (s : State) : (s.idlWrite ids).claim = s.claim := rfl
@[simp] theorem idlWrite_res (ids : List Nat) (s : State) : (s.idlWrite ids).res = s.res := rfl
@[simp] theorem idlWrite_cnt (ids : List Nat) (s : State) : (s.idlWrite ids).cnt = s.cnt := rfl
@[simp] theorem idlWrite_err (ids : List Nat) (s : State) : (s.idlWrite ids).err = s.err := rfl
@[simp] theorem idlWrite_vok (ids : List Nat) (s : State) : (s.idlWrite ids).vok = s.vok := rfl
@[simp] theorem idlWrite_fst (ids : List Nat) (s : State) : (s.idlWrite ids).fst = s.fst := rfl
@[simp] theorem idlWrite_fcfg (ids : List Nat) (s : State) : (s.idlWrite ids).fcfg = s.fcfg := rfl
@[simp] theorem idlWrite_fpre (ids : List Nat) (s : State) : (s.idlWrite ids).fpre = s.fpre := rfl
@[simp] theorem idlWrite_ilen (ids : List Nat) (s : State) : (s.idlWrite ids).ilen = s.ilen := rfl
@[simp] theorem idlWrite_olen (ids : List Nat) (s : State) : (s.idlWrite ids).olen = s.olen := rfl
@[simp] theorem idlWrite_idn (ids : List Nat) (s : State) : (s.idlWrite ids).idn = ids.length := rfl
@[simp] theorem idlWrite_ibuf (ids : List Nat) (s : State) : (s.idlWrite ids).ibuf = s.ibuf := rfl
@[simp] theorem idlWrite_obuf (ids : List Nat) (s : State) : (s.idlWrite ids).obuf = s.obuf := rfl
@[simp] theorem idlWrite_idl (ids : List Nat) (s : State) : (s.idlWrite ids).idl = Memory.listFrom 0 (ids.map (BitVec.ofNat 16)) := rfl
@[simp] theorem idlWrite_config (ids : List Nat) (s : State) : (s.idlWrite ids).config = s.config := rfl
@[simp] theorem idlWrite_pending (ids : List Nat) (s : State) : (s.idlWrite ids).pending = s.pending := rfl
@[simp] theorem idlWrite_readPort (ids : List Nat) (s : State) : (s.idlWrite ids).readPort = s.readPort := rfl
@[simp] theorem idlWrite_freeCtr (ids : List Nat) (s : State) : (s.idlWrite ids).freeCtr = s.freeCtr := rfl

@[simp] theorem hostWriteIbuf_off (i : Nat) (b : Byte) (s : State) : (hostWriteIbuf i b s).off = s.off := rfl
@[simp] theorem hostWriteIbuf_len (i : Nat) (b : Byte) (s : State) : (hostWriteIbuf i b s).len = s.len := rfl
@[simp] theorem hostWriteIbuf_val (i : Nat) (b : Byte) (s : State) : (hostWriteIbuf i b s).val = s.val := rfl
@[simp] theorem hostWriteIbuf_claim (i : Nat) (b : Byte) (s : State) : (hostWriteIbuf i b s).claim = s.claim := rfl
@[simp] theorem hostWriteIbuf_res (i : Nat) (b : Byte) (s : State) : (hostWriteIbuf i b s).res = s.res := rfl
@[simp] theorem hostWriteIbuf_cnt (i : Nat) (b : Byte) (s : State) : (hostWriteIbuf i b s).cnt = s.cnt := rfl
@[simp] theorem hostWriteIbuf_err (i : Nat) (b : Byte) (s : State) : (hostWriteIbuf i b s).err = s.err := rfl
@[simp] theorem hostWriteIbuf_vok (i : Nat) (b : Byte) (s : State) : (hostWriteIbuf i b s).vok = s.vok := rfl
@[simp] theorem hostWriteIbuf_fst (i : Nat) (b : Byte) (s : State) : (hostWriteIbuf i b s).fst = s.fst := rfl
@[simp] theorem hostWriteIbuf_fcfg (i : Nat) (b : Byte) (s : State) : (hostWriteIbuf i b s).fcfg = s.fcfg := rfl
@[simp] theorem hostWriteIbuf_fpre (i : Nat) (b : Byte) (s : State) : (hostWriteIbuf i b s).fpre = s.fpre := rfl
@[simp] theorem hostWriteIbuf_ilen (i : Nat) (b : Byte) (s : State) : (hostWriteIbuf i b s).ilen = s.ilen := rfl
@[simp] theorem hostWriteIbuf_olen (i : Nat) (b : Byte) (s : State) : (hostWriteIbuf i b s).olen = s.olen := rfl
@[simp] theorem hostWriteIbuf_idn (i : Nat) (b : Byte) (s : State) : (hostWriteIbuf i b s).idn = s.idn := rfl
@[simp] theorem hostWriteIbuf_ibuf (i : Nat) (b : Byte) (s : State) : (hostWriteIbuf i b s).ibuf = Memory.insert s.ibuf i b := rfl
@[simp] theorem hostWriteIbuf_obuf (i : Nat) (b : Byte) (s : State) : (hostWriteIbuf i b s).obuf = s.obuf := rfl
@[simp] theorem hostWriteIbuf_idl (i : Nat) (b : Byte) (s : State) : (hostWriteIbuf i b s).idl = s.idl := rfl
@[simp] theorem hostWriteIbuf_config (i : Nat) (b : Byte) (s : State) : (hostWriteIbuf i b s).config = s.config := rfl
@[simp] theorem hostWriteIbuf_pending (i : Nat) (b : Byte) (s : State) : (hostWriteIbuf i b s).pending = s.pending := rfl
@[simp] theorem hostWriteIbuf_readPort (i : Nat) (b : Byte) (s : State) : (hostWriteIbuf i b s).readPort = s.readPort := rfl
@[simp] theorem hostWriteIbuf_freeCtr (i : Nat) (b : Byte) (s : State) : (hostWriteIbuf i b s).freeCtr = s.freeCtr := rfl

@[simp] theorem hostWriteIdl_off (i : Nat) (e : IdEntry) (s : State) : (hostWriteIdl i e s).off = s.off := rfl
@[simp] theorem hostWriteIdl_len (i : Nat) (e : IdEntry) (s : State) : (hostWriteIdl i e s).len = s.len := rfl
@[simp] theorem hostWriteIdl_val (i : Nat) (e : IdEntry) (s : State) : (hostWriteIdl i e s).val = s.val := rfl
@[simp] theorem hostWriteIdl_claim (i : Nat) (e : IdEntry) (s : State) : (hostWriteIdl i e s).claim = s.claim := rfl
@[simp] theorem hostWriteIdl_res (i : Nat) (e : IdEntry) (s : State) : (hostWriteIdl i e s).res = s.res := rfl
@[simp] theorem hostWriteIdl_cnt (i : Nat) (e : IdEntry) (s : State) : (hostWriteIdl i e s).cnt = s.cnt := rfl
@[simp] theorem hostWriteIdl_err (i : Nat) (e : IdEntry) (s : State) : (hostWriteIdl i e s).err = s.err := rfl
@[simp] theorem hostWriteIdl_vok (i : Nat) (e : IdEntry) (s : State) : (hostWriteIdl i e s).vok = s.vok := rfl
@[simp] theorem hostWriteIdl_fst (i : Nat) (e : IdEntry) (s : State) : (hostWriteIdl i e s).fst = s.fst := rfl
@[simp] theorem hostWriteIdl_fcfg (i : Nat) (e : IdEntry) (s : State) : (hostWriteIdl i e s).fcfg = s.fcfg := rfl
@[simp] theorem hostWriteIdl_fpre (i : Nat) (e : IdEntry) (s : State) : (hostWriteIdl i e s).fpre = s.fpre := rfl
@[simp] theorem hostWriteIdl_ilen (i : Nat) (e : IdEntry) (s : State) : (hostWriteIdl i e s).ilen = s.ilen := rfl
@[simp] theorem hostWriteIdl_olen (i : Nat) (e : IdEntry) (s : State) : (hostWriteIdl i e s).olen = s.olen := rfl
@[simp] theorem hostWriteIdl_idn (i : Nat) (e : IdEntry) (s : State) : (hostWriteIdl i e s).idn = s.idn := rfl
@[simp] theorem hostWriteIdl_ibuf (i : Nat) (e : IdEntry) (s : State) : (hostWriteIdl i e s).ibuf = s.ibuf := rfl
@[simp] theorem hostWriteIdl_obuf (i : Nat) (e : IdEntry) (s : State) : (hostWriteIdl i e s).obuf = s.obuf := rfl
@[simp] theorem hostWriteIdl_idl (i : Nat) (e : IdEntry) (s : State) : (hostWriteIdl i e s).idl = Memory.insert s.idl i e := rfl
@[simp] theorem hostWriteIdl_config (i : Nat) (e : IdEntry) (s : State) : (hostWriteIdl i e s).config = s.config := rfl
@[simp] theorem hostWriteIdl_pending (i : Nat) (e : IdEntry) (s : State) : (hostWriteIdl i e s).pending = s.pending := rfl
@[simp] theorem hostWriteIdl_readPort (i : Nat) (e : IdEntry) (s : State) : (hostWriteIdl i e s).readPort = s.readPort := rfl
@[simp] theorem hostWriteIdl_freeCtr (i : Nat) (e : IdEntry) (s : State) : (hostWriteIdl i e s).freeCtr = s.freeCtr := rfl

@[simp] theorem hostRead_off (loc : Loc) (s : State) : (hostRead loc s).off = s.off := rfl
@[simp] theorem hostRead_len (loc : Loc) (s : State) : (hostRead loc s).len = s.len := rfl
@[simp] theorem hostRead_val (loc : Loc) (s : State) : (hostRead loc s).val = s.val := rfl
@[simp] theorem hostRead_claim (loc : Loc) (s : State) : (hostRead loc s).claim = s.claim := rfl
@[simp] theorem hostRead_res (loc : Loc) (s : State) : (hostRead loc s).res = s.res := rfl
@[simp] theorem hostRead_cnt (loc : Loc) (s : State) : (hostRead loc s).cnt = s.cnt := rfl
@[simp] theorem hostRead_err (loc : Loc) (s : State) : (hostRead loc s).err = s.err := rfl
@[simp] theorem hostRead_vok (loc : Loc) (s : State) : (hostRead loc s).vok = s.vok := rfl
@[simp] theorem hostRead_fst (loc : Loc) (s : State) : (hostRead loc s).fst = s.fst := rfl
@[simp] theorem hostRead_fcfg (loc : Loc) (s : State) : (hostRead loc s).fcfg = s.fcfg := rfl
@[simp] theorem hostRead_fpre (loc : Loc) (s : State) : (hostRead loc s).fpre = s.fpre := rfl
@[simp] theorem hostRead_ilen (loc : Loc) (s : State) : (hostRead loc s).ilen = s.ilen := rfl
@[simp] theorem hostRead_olen (loc : Loc) (s : State) : (hostRead loc s).olen = s.olen := rfl
@[simp] theorem hostRead_idn (loc : Loc) (s : State) : (hostRead loc s).idn = s.idn := rfl
@[simp] theorem hostRead_ibuf (loc : Loc) (s : State) : (hostRead loc s).ibuf = s.ibuf := rfl
@[simp] theorem hostRead_obuf (loc : Loc) (s : State) : (hostRead loc s).obuf = s.obuf := rfl
@[simp] theorem hostRead_idl (loc : Loc) (s : State) : (hostRead loc s).idl = s.idl := rfl
@[simp] theorem hostRead_config (loc : Loc) (s : State) : (hostRead loc s).config = s.config := rfl
@[simp] theorem hostRead_pending (loc : Loc) (s : State) : (hostRead loc s).pending = s.pending := rfl
@[simp] theorem hostRead_readPort (loc : Loc) (s : State) : (hostRead loc s).readPort = some (locValue s loc) := rfl
@[simp] theorem hostRead_freeCtr (loc : Loc) (s : State) : (hostRead loc s).freeCtr = s.freeCtr := rfl

@[simp] theorem placeIssue_off (s : State) (w : CmdWord) : (placeIssue s w).off = s.off := rfl
@[simp] theorem placeIssue_len (s : State) (w : CmdWord) : (placeIssue s w).len = s.len := rfl
@[simp] theorem placeIssue_val (s : State) (w : CmdWord) : (placeIssue s w).val = s.val := rfl
@[simp] theorem placeIssue_claim (s : State) (w : CmdWord) : (placeIssue s w).claim = s.claim := rfl
@[simp] theorem placeIssue_res (s : State) (w : CmdWord) : (placeIssue s w).res = s.res := rfl
@[simp] theorem placeIssue_cnt (s : State) (w : CmdWord) : (placeIssue s w).cnt = s.cnt := rfl
@[simp] theorem placeIssue_err (s : State) (w : CmdWord) : (placeIssue s w).err = s.err := rfl
@[simp] theorem placeIssue_vok (s : State) (w : CmdWord) : (placeIssue s w).vok = s.vok := rfl
@[simp] theorem placeIssue_fst (s : State) (w : CmdWord) : (placeIssue s w).fst = s.fst := rfl
@[simp] theorem placeIssue_fcfg (s : State) (w : CmdWord) : (placeIssue s w).fcfg = s.fcfg := rfl
@[simp] theorem placeIssue_fpre (s : State) (w : CmdWord) : (placeIssue s w).fpre = s.fpre := rfl
@[simp] theorem placeIssue_ilen (s : State) (w : CmdWord) : (placeIssue s w).ilen = s.ilen := rfl
@[simp] theorem placeIssue_olen (s : State) (w : CmdWord) : (placeIssue s w).olen = s.olen := rfl
@[simp] theorem placeIssue_idn (s : State) (w : CmdWord) : (placeIssue s w).idn = s.idn := rfl
@[simp] theorem placeIssue_ibuf (s : State) (w : CmdWord) : (placeIssue s w).ibuf = s.ibuf := rfl
@[simp] theorem placeIssue_obuf (s : State) (w : CmdWord) : (placeIssue s w).obuf = s.obuf := rfl
@[simp] theorem placeIssue_idl (s : State) (w : CmdWord) : (placeIssue s w).idl = s.idl := rfl
@[simp] theorem placeIssue_config (s : State) (w : CmdWord) : (placeIssue s w).config = s.config := rfl
@[simp] theorem placeIssue_pending (s : State) (w : CmdWord) : (placeIssue s w).pending = .issue w :: s.pending := rfl
@[simp] theorem placeIssue_readPort (s : State) (w : CmdWord) : (placeIssue s w).readPort = s.readPort := rfl
@[simp] theorem placeIssue_freeCtr (s : State) (w : CmdWord) : (placeIssue s w).freeCtr = s.freeCtr := rfl

@[simp] theorem hostReset_off (s : State) : (hostReset s).off = State.reset.off := rfl
@[simp] theorem hostReset_len (s : State) : (hostReset s).len = State.reset.len := rfl
@[simp] theorem hostReset_val (s : State) : (hostReset s).val = State.reset.val := rfl
@[simp] theorem hostReset_claim (s : State) : (hostReset s).claim = State.reset.claim := rfl
@[simp] theorem hostReset_res (s : State) : (hostReset s).res = State.reset.res := rfl
@[simp] theorem hostReset_cnt (s : State) : (hostReset s).cnt = State.reset.cnt := rfl
@[simp] theorem hostReset_err (s : State) : (hostReset s).err = State.reset.err := rfl
@[simp] theorem hostReset_vok (s : State) : (hostReset s).vok = State.reset.vok := rfl
@[simp] theorem hostReset_fst (s : State) : (hostReset s).fst = State.reset.fst := rfl
@[simp] theorem hostReset_fcfg (s : State) : (hostReset s).fcfg = State.reset.fcfg := rfl
@[simp] theorem hostReset_fpre (s : State) : (hostReset s).fpre = State.reset.fpre := rfl
@[simp] theorem hostReset_ilen (s : State) : (hostReset s).ilen = State.reset.ilen := rfl
@[simp] theorem hostReset_olen (s : State) : (hostReset s).olen = State.reset.olen := rfl
@[simp] theorem hostReset_idn (s : State) : (hostReset s).idn = State.reset.idn := rfl
@[simp] theorem hostReset_ibuf (s : State) : (hostReset s).ibuf = State.reset.ibuf := rfl
@[simp] theorem hostReset_obuf (s : State) : (hostReset s).obuf = State.reset.obuf := rfl
@[simp] theorem hostReset_idl (s : State) : (hostReset s).idl = State.reset.idl := rfl
@[simp] theorem hostReset_config (s : State) : (hostReset s).config = s.config := rfl
@[simp] theorem hostReset_pending (s : State) : (hostReset s).pending = s.pending := rfl
@[simp] theorem hostReset_readPort (s : State) : (hostReset s).readPort = State.reset.readPort := rfl
@[simp] theorem hostReset_freeCtr (s : State) : (hostReset s).freeCtr = s.freeCtr := rfl

/-! ### Reset values (10_state R41) -/

@[simp] theorem reset_off : State.reset.off = 0#64 := rfl
@[simp] theorem reset_len : State.reset.len = 0#64 := rfl
@[simp] theorem reset_val : State.reset.val = 0#64 := rfl
@[simp] theorem reset_claim : State.reset.claim = 0#64 := rfl
@[simp] theorem reset_res : State.reset.res = 0#64 := rfl
@[simp] theorem reset_cnt : State.reset.cnt = 0#64 := rfl
@[simp] theorem reset_err : State.reset.err = .ok := rfl
@[simp] theorem reset_vok : State.reset.vok = false := rfl
@[simp] theorem reset_fst : State.reset.fst = .awaitingPreamble := rfl
@[simp] theorem reset_fcfg : State.reset.fcfg = 0#32 := rfl
@[simp] theorem reset_fpre : State.reset.fpre = 0#32 := rfl
@[simp] theorem reset_ilen : State.reset.ilen = 0 := rfl
@[simp] theorem reset_olen : State.reset.olen = 0 := rfl
@[simp] theorem reset_idn : State.reset.idn = 0 := rfl
@[simp] theorem reset_ibuf : State.reset.ibuf = [] := rfl
@[simp] theorem reset_obuf : State.reset.obuf = [] := rfl
@[simp] theorem reset_idl : State.reset.idl = [] := rfl
@[simp] theorem reset_config : State.reset.config = Config.default := rfl
@[simp] theorem reset_pending : State.reset.pending = [] := rfl
@[simp] theorem reset_readPort : State.reset.readPort = none := rfl
@[simp] theorem reset_freeCtr : State.reset.freeCtr = 0 := rfl

end Sys2Proof.Machine
end

