-- ==== Sys2Proof/Laws/Ops.lean ====
section
/-! SUPPORT. One lemma per shared operation that says once what it can do: reads, the operand span, the two writes, and
the end of a command. -/

namespace Sys2Proof.Machine

/-! ### Except, as the meanings use it -/

@[simp] theorem except_bind_ok {ε α β : Type} (a : α) (f : α → Except ε β) : (Except.ok a >>= f) = f a := rfl

@[simp] theorem except_bind_error {ε α β : Type} (e : ε) (f : α → Except ε β) :
    (Except.error e >>= f) = .error e := rfl

@[simp] theorem except_pure {ε α : Type} (a : α) : (pure a : Except ε α) = .ok a := rfl

/-- A bind that ends well: its first part ended well, and so did the rest. -/
theorem except_bind_eq_ok {ε α β : Type} {x : Except ε α} {f : α → Except ε β} {b : β}
    (h : (x >>= f) = .ok b) : ∃ a, x = .ok a ∧ f a = .ok b := by
  cases x with
  | ok a => exact ⟨a, rfl, h⟩
  | error e => cases h

/-! ### The end of a command -/

@[simp] theorem settle_ok (s t : State) : settle s (.ok t) = t := rfl

@[simp] theorem settle_error (s : State) (e : ErrCode) : settle s (.error e) = raise e s := rfl

/-- A command that ends through `complete` answers a next state: what it committed, or a failure of the state it
began in. -/
theorem complete_cases {s t : State} {r : Except ErrCode State} (h : complete s r = .next t) :
    r = .ok t ∨ ∃ e, r = .error e ∧ t = raise e s := by
  cases r with
  | ok u => left; cases h; rfl
  | error e => right; cases h; exact ⟨e, rfl, rfl⟩

@[simp] theorem complete_ok (s t : State) : complete s (.ok t) = .next t := rfl

@[simp] theorem complete_error (s : State) (e : ErrCode) : complete s (.error e) = .next (raise e s) := rfl

/-! ### Reads -/

@[simp] theorem memRead_length (s : State) (a n : Nat) : (s.memRead a n).length = n := by
  simp [State.memRead]

@[simp] theorem memRead_getElem (s : State) (a n k : Nat) (h : k < (s.memRead a n).length) :
    (s.memRead a n)[k] = s.ibufByte (a + k) := by
  simp [State.memRead]

theorem memRead_getElem? (s : State) (a n k : Nat) :
    (s.memRead a n)[k]? = if k < n then some (s.ibufByte (a + k)) else none := by
  by_cases h : k < n <;> simp [State.memRead, h]

@[simp] theorem payload_length (s : State) : s.payload.length = s.ilen := by simp [State.payload]

/-- A specified byte reads as what is held: no free value is involved. -/
theorem ibufByte_of_specified {s : State} {a : Nat} {b : Byte} (h : s.ibufAt a = some b) : s.ibufByte a = b := by
  simp [State.ibufByte, h]

/-- A specified entry reads as what is held. -/
theorem idlEntry_of_specified {s : State} {j : Nat} {e : IdEntry} (h : s.idlAt j = some e) : s.idlEntry j = e := by
  simp [State.idlEntry, h]

/-- Two states that hold the same specified bytes in a span read it alike, whatever their free-value counters. -/
theorem memRead_congr {s t : State} {a n : Nat} (hs : ∀ k < n, (s.ibufAt (a + k)).isSome = true)
    (ht : ∀ k < n, t.ibufAt (a + k) = s.ibufAt (a + k)) : t.memRead a n = s.memRead a n := by
  refine List.map_congr_left fun k hk => ?_
  have hk' := List.mem_range.1 hk
  obtain ⟨b, hb⟩ := Option.isSome_iff_exists.1 (hs k hk')
  rw [ibufByte_of_specified hb, ibufByte_of_specified ((ht k hk').trans hb)]

/-- The same for the ID list. -/
theorem fieldIds_congr {s t : State} (hs : ∀ j < s.idn, (s.idlAt j).isSome = true) (hn : t.idn = s.idn)
    (ht : ∀ j < s.idn, t.idlAt j = s.idlAt j) : t.fieldIds = s.fieldIds := by
  unfold State.fieldIds
  rw [hn]
  refine List.map_congr_left fun j hj => ?_
  have hj' := List.mem_range.1 hj
  obtain ⟨e, he⟩ := Option.isSome_iff_exists.1 (hs j hj')
  rw [idlEntry_of_specified he, idlEntry_of_specified ((ht j hj').trans he)]

/-- A slice of the payload inside ILEN is a read of IBUF. -/
theorem slice_payload (s : State) {a n : Nat} (h : a + n ≤ s.ilen) : slice s.payload a n = s.memRead a n := by
  apply List.ext_getElem
  · simp [slice]; omega
  · intro k h1 h2
    simp [slice, State.payload]

/-- The operand span: the bytes when it lies inside IBUF[0 .. ILEN), TruncatedPayloadError otherwise (R53). -/
theorem operandSpan_of_le {s : State} {n : Nat} (h : s.off.toNat + n ≤ s.ilen) :
    operandSpan s n = .ok (s.memRead s.off.toNat n) := if_pos h

theorem operandSpan_of_lt {s : State} {n : Nat} (h : s.ilen < s.off.toNat + n) :
    operandSpan s n = .error .truncatedPayloadError := if_neg (by omega)

theorem operandSpan_eq_ok {s : State} {n : Nat} {b : List Byte} (h : operandSpan s n = .ok b) :
    s.off.toNat + n ≤ s.ilen ∧ b = s.memRead s.off.toNat n := by
  unfold operandSpan at h
  split at h
  · cases h; exact ⟨‹_›, rfl⟩
  · cases h

/-! ### Writes -/

/-- After `memWrite v` OBUF holds `v` at [0, |v|) and nothing specified elsewhere (R36). -/
theorem memWrite_obufAt (s : State) (v : List Byte) (i : Nat) : (s.memWrite v).obufAt i = v[i]? := by
  by_cases h : i < v.length
  · simp [State.obufAt, h, Memory.lookup_listFrom]
  · simp [State.obufAt, h]

/-- After `idlWrite ids` IDL holds the IDs at [0, |ids|) and nothing specified elsewhere (R37, R174). -/
theorem idlWrite_idlAt (s : State) (ids : List Nat) (i : Nat) :
    (s.idlWrite ids).idlAt i = (ids[i]?).map (BitVec.ofNat 16) := by
  by_cases h : i < ids.length
  · simp [State.idlAt, h, Memory.lookup_listFrom]
  · simp [State.idlAt, h]

/-- Every memory operation keeps the canonical form of the buffers. -/
theorem memWrite_obuf_wf (s : State) (v : List Byte) : Memory.wf (s.memWrite v).obuf = true :=
  Memory.wf_listFrom 0 v

theorem idlWrite_idl_wf (s : State) (ids : List Nat) : Memory.wf (s.idlWrite ids).idl = true :=
  Memory.wf_listFrom 0 _

theorem hostWriteIbuf_ibuf_wf {s : State} (i : Nat) (b : Byte) (h : Memory.wf s.ibuf = true) :
    Memory.wf (hostWriteIbuf i b s).ibuf = true :=
  Memory.wf_insert i b h

theorem hostWriteIdl_idl_wf {s : State} (i : Nat) (e : IdEntry) (h : Memory.wf s.idl = true) :
    Memory.wf (hostWriteIdl i e s).idl = true :=
  Memory.wf_insert i e h

theorem reset_memories_wf :
    Memory.wf State.reset.ibuf = true ∧ Memory.wf State.reset.obuf = true ∧ Memory.wf State.reset.idl = true :=
  ⟨rfl, rfl, rfl⟩

end Sys2Proof.Machine
end

