-- ==== Sys2Proof/Laws/Exec.lean ====
section
/-! SUPPORT. One lemma per command that says everything it can do: from the next state it answers, either what it
committed and the tests it passed, or the one error and the test that failed. -/

namespace Sys2Proof.Machine

/-- A command that ends through `complete`, whose first test is the operand span of `n` bytes. -/
theorem complete_span_cases {s t : State} {n : Nat} {f : List Byte → Except ErrCode State}
    (h : complete s (operandSpan s n >>= f) = .next t) :
    (s.off.toNat + n ≤ s.ilen ∧ complete s (f (s.memRead s.off.toNat n)) = .next t) ∨
    (s.ilen < s.off.toNat + n ∧ t = raise .truncatedPayloadError s) := by
  by_cases hb : s.off.toNat + n ≤ s.ilen
  · rw [operandSpan_of_le hb, except_bind_ok] at h
    exact .inl ⟨hb, h⟩
  · rw [operandSpan_of_lt (by omega), except_bind_error, complete_error] at h
    cases h
    exact .inr ⟨by omega, rfl⟩

/-- A command that ends through `complete`, where the rest of it succeeds once `x` has. -/
theorem complete_bind_cases {α : Type} {s t : State} {x : Except ErrCode α} {f : α → State}
    (h : complete s (x >>= fun a => pure (f a)) = .next t) :
    (∃ a, x = .ok a ∧ t = f a) ∨ ∃ e, x = .error e ∧ t = raise e s := by
  cases x with
  | ok a => left; cases h; exact ⟨a, rfl, rfl⟩
  | error e => right; cases h; exact ⟨e, rfl, rfl⟩

theorem execRdint_cases {s t : State} {w : Width} {e : Endian} {sg : Sign} (h : execRdint w e sg s = .next t) :
    (s.off.toNat + widthBytes w ≤ s.ilen ∧
      t = succeed { s with
        res := BitVec.ofInt 64 (readInt (s.memRead s.off.toNat (widthBytes w)) e sg)
        cnt := BitVec.ofNat 64 (widthBytes w) }) ∨
    (s.ilen < s.off.toNat + widthBytes w ∧ t = raise .truncatedPayloadError s) := by
  rcases complete_span_cases h with ⟨hb, h⟩ | h
  · cases h; exact .inl ⟨hb, rfl⟩
  · exact .inr h

/-- writeInt fails with one error only (R102). -/
theorem writeInt_cases (v : Int) (w : Nat) (e : Endian) (sg : Sign) :
    (intFits v w sg = true ∧ writeInt v w e sg = .ok (bytesOfNat e (v % 2 ^ (8 * w)).toNat w)) ∨
    (intFits v w sg = false ∧ writeInt v w e sg = .error .valueOutOfRange) := by
  unfold writeInt
  cases intFits v w sg <;> simp

theorem execWrint_cases {s t : State} {w : Width} {e : Endian} {sg : Sign} (h : execWrint w e sg s = .next t) :
    (∃ bytes, writeInt (valueOperand sg s.val) (widthBytes w) e sg = .ok bytes ∧ t = succeed (s.memWrite bytes)) ∨
    (intFits (valueOperand sg s.val) (widthBytes w) sg = false ∧ t = raise .valueOutOfRange s) := by
  rcases complete_bind_cases h with h | ⟨x, hx, rfl⟩
  · exact .inl h
  · rcases writeInt_cases (valueOperand sg s.val) (widthBytes w) e sg with ⟨-, h'⟩ | ⟨hf, h'⟩ <;> rw [h'] at hx <;>
      cases hx
    exact .inr ⟨hf, rfl⟩

theorem execRdf32le_cases {s t : State} (h : execRdf32le s = .next t) :
    (s.off.toNat + 4 ≤ s.ilen ∧
      t = succeed { s with res := BitVec.ofNat 64 (readFloat32LE (s.memRead s.off.toNat 4)), cnt := 4#64 }) ∨
    (s.ilen < s.off.toNat + 4 ∧ t = raise .truncatedPayloadError s) := by
  rcases complete_span_cases h with ⟨hb, h⟩ | h
  · cases h; exact .inl ⟨hb, rfl⟩
  · exact .inr h

theorem execWrf32le_cases {s t : State} (h : execWrf32le s = .next t) :
    (s.val.toNat < 2 ^ 32 ∧ t = succeed (s.memWrite (writeFloat32LE s.val.toNat))) ∨
    (2 ^ 32 ≤ s.val.toNat ∧ t = raise .valueOutOfRange s) := by
  unfold execWrf32le at h
  split at h <;> cases h
  · exact .inr ⟨‹_›, rfl⟩
  · exact .inl ⟨by omega, rfl⟩

/-- bcdDigitsToString fails with one error only (R121). -/
theorem bcdDigitsToString_error {b : List Byte} {e : ErrCode} (h : bcdDigitsToString b = .error e) :
    e = .bcdNibbleError := by
  unfold bcdDigitsToString at h
  split at h <;> cases h
  rfl

theorem execBcd2str_cases {s t : State} (h : execBcd2str s = .next t) :
    (s.off.toNat + s.len.toNat ≤ s.ilen ∧
      ((∃ str, bcdDigitsToString (s.memRead s.off.toNat s.len.toNat) = .ok str ∧
          t = succeed { s.memWrite str with cnt := s.len }) ∨
        (bcdDigitsToString (s.memRead s.off.toNat s.len.toNat) = .error .bcdNibbleError ∧
          t = raise .bcdNibbleError s))) ∨
    (s.ilen < s.off.toNat + s.len.toNat ∧ t = raise .truncatedPayloadError s) := by
  rcases complete_span_cases h with ⟨hb, h⟩ | h
  · refine .inl ⟨hb, ?_⟩
    rcases complete_bind_cases h with h | ⟨e, he, rfl⟩
    · exact .inl h
    · obtain rfl := bcdDigitsToString_error he
      exact .inr ⟨he, rfl⟩
  · exact .inr h

/-- stringToBcdDigits fails with one error only (R122). -/
theorem stringToBcdDigits_error {str : List Byte} {w : Nat} {e : ErrCode} (h : stringToBcdDigits str w = .error e) :
    e = .valueOutOfRange := by
  unfold stringToBcdDigits at h
  split at h
  · cases h; rfl
  split at h <;> cases h
  rfl

theorem execStr2bcd_cases {s t : State} (h : execStr2bcd s = .next t) :
    (s.off.toNat + s.len.toNat ≤ s.ilen ∧
      ((∃ b, s.val.toNat ≤ s.config.obufCap ∧
          stringToBcdDigits (s.memRead s.off.toNat s.len.toNat) s.val.toNat = .ok b ∧
          t = succeed { s.memWrite b with cnt := s.len }) ∨
        ((s.config.obufCap < s.val.toNat ∨
            stringToBcdDigits (s.memRead s.off.toNat s.len.toNat) s.val.toNat = .error .valueOutOfRange) ∧
          t = raise .valueOutOfRange s))) ∨
    (s.ilen < s.off.toNat + s.len.toNat ∧ t = raise .truncatedPayloadError s) := by
  rcases complete_span_cases h with ⟨hb, h⟩ | h
  · refine .inl ⟨hb, ?_⟩
    split at h
    · cases h; exact .inr ⟨.inl ‹_›, rfl⟩
    · rcases complete_bind_cases h with ⟨b, hb', rfl⟩ | ⟨e, he, rfl⟩
      · exact .inl ⟨b, by omega, hb', rfl⟩
      · obtain rfl := stringToBcdDigits_error he
        exact .inr ⟨.inr he, rfl⟩
  · exact .inr h

/-- imeiToBcd fails with one error only (R125, R126). -/
theorem imeiToBcd_error {m : ImeiLayout} {str : List Byte} {e : ErrCode} (h : imeiToBcd m str = .error e) :
    e = .valueOutOfRange := by
  cases m
  · simp only [imeiToBcd, imeiToBcdPlain] at h
    split at h
    · cases h; rfl
    split at h
    · cases h; rfl
    split at h <;> cases h
    rfl
  · simp only [imeiToBcd, imeiToBcdSwapped] at h
    split at h
    · cases h; rfl
    split at h <;> cases h
    rfl

theorem execImei2bcd_cases {s t : State} {m : ImeiLayout} (h : execImei2bcd m s = .next t) :
    (s.off.toNat + s.len.toNat ≤ s.ilen ∧
      ((∃ b, imeiToBcd m (s.memRead s.off.toNat s.len.toNat) = .ok b ∧
          t = succeed { s.memWrite b with cnt := s.len }) ∨
        (imeiToBcd m (s.memRead s.off.toNat s.len.toNat) = .error .valueOutOfRange ∧
          t = raise .valueOutOfRange s))) ∨
    (s.ilen < s.off.toNat + s.len.toNat ∧ t = raise .truncatedPayloadError s) := by
  rcases complete_span_cases h with ⟨hb, h⟩ | h
  · refine .inl ⟨hb, ?_⟩
    rcases complete_bind_cases h with h | ⟨e, he, rfl⟩
    · exact .inl h
    · obtain rfl := imeiToBcd_error he
      exact .inr ⟨he, rfl⟩
  · exact .inr h

/-- bcdToImei fails with one error only (R127, R128). -/
theorem bcdToImei_error {m : ImeiLayout} {b : List Byte} {e : ErrCode} (h : bcdToImei m b = .error e) :
    e = .bcdNibbleError := by
  cases m
  · simp only [bcdToImei, bcdToImeiPlain] at h
    split at h
    · cases h; rfl
    split at h <;> cases h
  · simp only [bcdToImei, bcdToImeiSwapped] at h
    split at h
    · cases h; rfl
    split at h
    · cases h
    split at h <;> cases h
    rfl

theorem execBcd2imei_cases {s t : State} {m : ImeiLayout} (h : execBcd2imei m s = .next t) :
    (s.off.toNat + 8 ≤ s.ilen ∧
      ((∃ str, bcdToImei m (s.memRead s.off.toNat 8) = .ok str ∧ t = succeed { s.memWrite str with cnt := 8#64 }) ∨
        (bcdToImei m (s.memRead s.off.toNat 8) = .error .bcdNibbleError ∧ t = raise .bcdNibbleError s))) ∨
    (s.ilen < s.off.toNat + 8 ∧ t = raise .truncatedPayloadError s) := by
  rcases complete_span_cases h with ⟨hb, h⟩ | h
  · refine .inl ⟨hb, ?_⟩
    rcases complete_bind_cases h with h | ⟨e, he, rfl⟩
    · exact .inl h
    · obtain rfl := bcdToImei_error he
      exact .inr ⟨he, rfl⟩
  · exact .inr h

/-- What XORC, C16C and C8C can do. -/
theorem computeChecksum_cases {checksum : List Byte → Word} {s t : State}
    (h : computeChecksum checksum s = .next t) :
    (s.off.toNat + s.len.toNat ≤ s.ilen ∧
      t = succeed { s with res := checksum (s.memRead s.off.toNat s.len.toNat), cnt := s.len }) ∨
    (s.ilen < s.off.toNat + s.len.toNat ∧ t = raise .truncatedPayloadError s) := by
  rcases complete_span_cases h with ⟨hb, h⟩ | h
  · cases h; exact .inl ⟨hb, rfl⟩
  · exact .inr h

/-- What XORV, C16V and C8V can do. -/
theorem verifyChecksum_cases {checksum : List Byte → Word} {s t : State}
    (h : verifyChecksum checksum s = .next t) :
    (s.off.toNat + s.len.toNat ≤ s.ilen ∧
      t = { s with
        res := checksum (s.memRead s.off.toNat s.len.toNat)
        cnt := s.len
        vok := claimMatches (checksum (s.memRead s.off.toNat s.len.toNat)) s.claim
        err := .ok }) ∨
    (s.ilen < s.off.toNat + s.len.toNat ∧ t = raise .truncatedPayloadError s) := by
  rcases complete_span_cases h with ⟨hb, h⟩ | h
  · cases h; exact .inl ⟨hb, rfl⟩
  · exact .inr h

/-- The header loop fails with one error only (R172). -/
theorem parseHeaderFrom_error {k : Nat} {b : List Byte} {e : ErrCode} (h : parseHeaderFrom k b = .error e) :
    e = .malformedHeaderError := by
  induction b generalizing k with
  | nil => cases h; rfl
  | cons x rest ih =>
    unfold parseHeaderFrom at h
    split at h
    · cases hr : parseHeaderFrom (k + 1) rest with
      | ok r => rw [hr] at h; cases h
      | error e' => rw [hr] at h; cases h; exact ih hr
    · cases h

theorem execHdrp_cases {s t : State} (h : execHdrp s = .next t) :
    (∃ ids k, parseBitmaskHeader s.payload s.off.toNat = .ok (ids, k) ∧
      t = succeed { s.idlWrite ids with cnt := BitVec.ofNat 64 k }) ∨
    (parseBitmaskHeader s.payload s.off.toNat = .error .malformedHeaderError ∧ t = raise .malformedHeaderError s) := by
  unfold execHdrp at h
  cases hp : parseBitmaskHeader s.payload s.off.toNat with
  | ok r =>
    rw [hp] at h
    cases h
    exact .inl ⟨r.1, r.2, rfl, rfl⟩
  | error e =>
    obtain rfl := parseHeaderFrom_error hp
    rw [hp] at h
    cases h
    exact .inr ⟨rfl, rfl⟩

theorem execHdrb_cases {s t : State} (h : execHdrb s = .next t) :
    (0 ∉ s.fieldIds ∧ headerLength s.fieldIds ≤ s.config.obufCap ∧
      t = succeed (s.memWrite (headerBytes s.fieldIds))) ∨
    ((0 ∈ s.fieldIds ∨ s.config.obufCap < headerLength s.fieldIds) ∧ t = raise .valueOutOfRange s) := by
  by_cases h0 : 0 ∈ s.fieldIds
  · have hc : s.fieldIds.contains 0 = true := List.contains_iff_mem.2 h0
    unfold execHdrb at h
    rw [if_pos hc] at h
    cases h
    exact .inr ⟨.inl h0, rfl⟩
  · have hc : ¬ s.fieldIds.contains 0 = true := fun hc => h0 (List.contains_iff_mem.1 hc)
    unfold execHdrb at h
    rw [if_neg hc] at h
    split at h
    · cases h; exact .inr ⟨.inr ‹_›, rfl⟩
    · unfold buildBitmaskHeader at h
      rw [if_neg hc] at h
      cases h
      exact .inl ⟨h0, by omega, rfl⟩

/-- The frame parser fails with one of the three frame errors (R187). -/
theorem parseFrameHeader_error {f p : CmdWord} {buf : List Byte} {o : Nat} {e : ErrCode}
    (h : parseFrameHeader f p buf o = .error e) :
    e = .truncatedPayloadError ∨ e = .invalidPreamble ∨ e = .lengthMismatch := by
  simp only [parseFrameHeader] at h
  split at h
  · cases h; simp
  split at h
  · cases h; simp
  split at h
  · cases h; simp
  split at h
  · cases h; simp
  split at h <;> cases h
  simp

theorem execFhdr_cases {s t : State} (h : execFhdr s = .next t) :
    (legalFcfg s.fcfg = false ∧ t = raise .illegalCommand s) ∨
    (legalFcfg s.fcfg = true ∧
      ((∃ declared n, parseFrameHeader s.fcfg s.fpre s.payload s.off.toNat = .ok (declared, n) ∧
          t = succeed { s with res := BitVec.ofNat 64 declared, cnt := BitVec.ofNat 64 n, fst := .readingBody }) ∨
        ∃ e, parseFrameHeader s.fcfg s.fpre s.payload s.off.toNat = .error e ∧
          t = raise e { s with fst := .rejected })) := by
  cases h
  unfold fhdrState
  cases hl : legalFcfg s.fcfg
  · exact .inl ⟨rfl, rfl⟩
  · refine .inr ⟨rfl, ?_⟩
    cases hp : parseFrameHeader s.fcfg s.fpre s.payload s.off.toNat with
    | ok r => exact .inl ⟨r.1, r.2, rfl, rfl⟩
    | error e => exact .inr ⟨e, rfl, rfl⟩

theorem execFchk_cases {s t : State} (h : execFchk s = .next t) :
    (legalFcfg s.fcfg = false ∧ t = raise .illegalCommand s) ∨
    (legalFcfg s.fcfg = true ∧ s.fst ≠ .readingBody ∧ t = raise .badState s) ∨
    (legalFcfg s.fcfg = true ∧ s.fst = .readingBody ∧ s.ilen < s.off.toNat + s.len.toNat ∧
      t = raise .truncatedPayloadError s) ∨
    (legalFcfg s.fcfg = true ∧ s.fst = .readingBody ∧ s.off.toNat + s.len.toNat ≤ s.ilen ∧
      ∃ c ok, c = gateChecksum (fcfgCkalg s.fcfg) s.config.crc8Table (s.memRead s.off.toNat s.len.toNat) ∧
        ok = claimMatches c s.claim ∧
        t = { s with
          res := c
          cnt := s.len
          vok := ok
          err := if ok then .ok else .checksumMismatch
          fst := verdict s.fcfg ok }) := by
  unfold execFchk at h
  cases hl : legalFcfg s.fcfg
  · rw [hl] at h
    cases h
    exact .inl ⟨rfl, rfl⟩
  · rw [hl] at h
    simp only [Bool.not_true, Bool.false_eq_true, if_false] at h
    split at h
    · cases h; exact .inr (.inl ⟨rfl, ‹_›, rfl⟩)
    · have hf : s.fst = .readingBody := Decidable.not_not.1 ‹_›
      rcases complete_span_cases h with ⟨hb, h⟩ | ⟨hb, rfl⟩
      · cases h
        exact .inr (.inr (.inr ⟨rfl, hf, hb, _, _, rfl, rfl, rfl⟩))
      · exact .inr (.inr (.inl ⟨rfl, hf, hb, rfl⟩))

end Sys2Proof.Machine
end

