-- ==== Sys2Proof/Laws/FreeValues.lean ====
section
/-! SUPPORT. A command whose inputs are specified does not depend on the queue of host actions nor on the free-value
counter, the model's own fields (log entries 2 and 4). -/

namespace Sys2Proof.Machine

/-- `s` with another queue and another free-value counter. -/
abbrev State.other (p : List HostAction) (c : Nat) (s : State) : State := { s with pending := p, freeCtr := c }

/-- The same change, made to the next state of an outcome. -/
abbrev otherNext (p : List HostAction) (c : Nat) :
    Host.Outcome State Fault Refusal → Host.Outcome State Fault Refusal
  | .next t => .next (t.other p c)
  | .fault r => .fault r
  | .refused r => .refused r

/-- A command that ends through `complete`: the rest of it may be compared result by result. -/
theorem complete_bind_other {α : Type} {p : List HostAction} {c : Nat} {s : State} {f g : α → Except ErrCode State}
    (x : Except ErrCode α) (h : ∀ a, settle (s.other p c) (f a) = (settle s (g a)).other p c) :
    complete (s.other p c) (x >>= f) = otherNext p c (complete s (x >>= g)) := by
  cases x with
  | ok a => exact congrArg _ (h a)
  | error e => rfl

/-- With IBUF specified below ILEN and IDL below IDN, the outcome of a command at another queue and counter is its
outcome, with that queue and counter. -/
theorem exec_other (i : Instr) (s : State) (p : List HostAction) (c : Nat)
    (hbuf : ∀ a < s.ilen, (s.ibufAt a).isSome = true) (hids : ∀ j < s.idn, (s.idlAt j).isSome = true) :
    exec i (s.other p c) = otherNext p c (exec i s) := by
  have hm : ∀ a n, a + n ≤ s.ilen → (s.other p c).memRead a n = s.memRead a n := fun a n h =>
    memRead_congr (fun k hk => hbuf _ (by omega)) (fun _ _ => rfl)
  have hspan : ∀ n, operandSpan (s.other p c) n = operandSpan s n := by
    intro n
    by_cases h : s.off.toNat + n ≤ s.ilen
    · rw [operandSpan_of_le h, operandSpan_of_le (s := s.other p c) h, hm _ _ h]
    · have hlt : s.ilen < s.off.toNat + n := by omega
      rw [operandSpan_of_lt hlt, operandSpan_of_lt (s := s.other p c) hlt]
  have hpay : (s.other p c).payload = s.payload := hm 0 _ (by simp)
  have hfld : (s.other p c).fieldIds = s.fieldIds := fieldIds_congr hids rfl (fun _ _ => rfl)
  cases i with
  | rdint w e sg =>
    simp only [exec, execRdint, hspan]
    exact complete_bind_other _ (fun _ => rfl)
  | wrint w e sg => exact complete_bind_other _ (fun _ => rfl)
  | rdf32le =>
    simp only [exec, execRdf32le, hspan]
    exact complete_bind_other _ (fun _ => rfl)
  | wrf32le =>
    simp only [exec, execWrf32le]
    split <;> rfl
  | bcd2str =>
    simp only [exec, execBcd2str, hspan]
    refine complete_bind_other _ fun b => ?_
    cases bcdDigitsToString b <;> rfl
  | str2bcd =>
    simp only [exec, execStr2bcd, hspan]
    refine complete_bind_other _ fun b => ?_
    split
    · rfl
    · cases stringToBcdDigits b s.val.toNat <;> rfl
  | imei2bcd m =>
    simp only [exec, execImei2bcd, hspan]
    refine complete_bind_other _ fun b => ?_
    cases imeiToBcd m b <;> rfl
  | bcd2imei m =>
    simp only [exec, execBcd2imei, hspan]
    refine complete_bind_other _ fun b => ?_
    cases bcdToImei m b <;> rfl
  | xorc =>
    simp only [exec, execXorc, computeChecksum, hspan]
    exact complete_bind_other _ (fun _ => rfl)
  | c16c =>
    simp only [exec, execC16c, computeChecksum, hspan]
    exact complete_bind_other _ (fun _ => rfl)
  | c8c =>
    simp only [exec, execC8c, computeChecksum, hspan]
    exact complete_bind_other _ (fun _ => rfl)
  | xorv =>
    simp only [exec, execXorv, verifyChecksum, hspan]
    exact complete_bind_other _ (fun _ => rfl)
  | c16v =>
    simp only [exec, execC16v, verifyChecksum, hspan]
    exact complete_bind_other _ (fun _ => rfl)
  | c8v =>
    simp only [exec, execC8v, verifyChecksum, hspan]
    exact complete_bind_other _ (fun _ => rfl)
  | hdrp =>
    simp only [exec, execHdrp, hpay]
    exact complete_bind_other _ (fun _ => rfl)
  | hdrb =>
    simp only [exec, execHdrb, hfld]
    split
    · rfl
    split
    · rfl
    · exact complete_bind_other _ (fun _ => rfl)
  | fhdr =>
    simp only [exec, execFhdr, fhdrState, hpay]
    split
    · split <;> rfl
    · rfl
  | fchk =>
    simp only [exec, execFchk, hspan]
    split
    · rfl
    split
    · rfl
    · exact complete_bind_other _ (fun _ => rfl)

end Sys2Proof.Machine
end

