-- ==== Sys2Proof/Laws/Functions.lean ====
section
/-! SUPPORT. How many bytes, digits or IDs each function of the codec gives. -/

namespace Sys2Proof.Machine

@[simp] theorem leBytes_length (u w : Nat) : (leBytes u w).length = w := by
  induction w generalizing u with
  | zero => rfl
  | succ w ih => simp [leBytes, ih]

@[simp] theorem beBytes_length (u w : Nat) : (beBytes u w).length = w := by simp [beBytes]

@[simp] theorem bytesOfNat_length (e : Endian) (u w : Nat) : (bytesOfNat e u w).length = w := by
  cases e <;> simp [bytesOfNat]

theorem writeInt_length {v : Int} {w : Nat} {e : Endian} {sg : Sign} {b : List Byte}
    (h : writeInt v w e sg = .ok b) : b.length = w := by
  unfold writeInt at h
  split at h <;> cases h
  simp

@[simp] theorem writeFloat32LE_length (p : Nat) : (writeFloat32LE p).length = 4 := by simp [writeFloat32LE]

@[simp] theorem nibblesPlain_length (b : List Byte) : (nibblesPlain b).length = 2 * b.length := by
  induction b with
  | nil => rfl
  | cons x rest ih =>
    rw [nibblesPlain, List.flatMap_cons, List.length_append, ← nibblesPlain, ih, List.length_cons]
    simp only [List.length_cons, List.length_nil]
    omega

@[simp] theorem nibblesSwapped_length (b : List Byte) : (nibblesSwapped b).length = 2 * b.length := by
  induction b with
  | nil => rfl
  | cons x rest ih =>
    rw [nibblesSwapped, List.flatMap_cons, List.length_append, ← nibblesSwapped, ih, List.length_cons]
    simp only [List.length_cons, List.length_nil]
    omega

@[simp] theorem packPlain_length (d : List Nibble) : (packPlain d).length = d.length / 2 := by
  induction d using packPlain.induct with
  | case1 h l rest ih => simp only [packPlain, List.length_cons, ih]; omega
  | case2 d hd =>
    match d, hd with
    | [], _ => rfl
    | [_], _ => simp [packPlain]
    | h :: l :: rest, hd => exact absurd rfl (hd h l rest)

@[simp] theorem packSwapped_length (d : List Nibble) : (packSwapped d).length = d.length / 2 := by
  induction d using packSwapped.induct with
  | case1 l h rest ih => simp only [packSwapped, List.length_cons, ih]; omega
  | case2 d hd =>
    match d, hd with
    | [], _ => rfl
    | [_], _ => simp [packSwapped]
    | l :: h :: rest, hd => exact absurd rfl (hd l h rest)

/-- BCD to digits: two characters a byte (R121). -/
theorem bcdDigitsToString_length {b str : List Byte} (h : bcdDigitsToString b = .ok str) :
    str.length = 2 * b.length := by
  unfold bcdDigitsToString at h
  split at h <;> cases h
  simp

/-- Digits to BCD: exactly the width asked for (R122). -/
theorem stringToBcdDigits_length {str b : List Byte} {w : Nat} (h : stringToBcdDigits str w = .ok b) :
    b.length = w := by
  unfold stringToBcdDigits at h
  split at h
  · cases h
  split at h
  · cases h
  · cases h
    simp only [packPlain_length, List.length_append, List.length_replicate, List.length_map]
    omega

/-- An IMEI is eight bytes in either layout (R125, R126). -/
theorem imeiToBcd_length {m : ImeiLayout} {str b : List Byte} (h : imeiToBcd m str = .ok b) : b.length = 8 := by
  cases m <;> simp only [imeiToBcd, imeiToBcdPlain, imeiToBcdSwapped] at h
  · split at h
    · cases h
    split at h
    · cases h
    split at h <;> cases h
    by_cases h15 : str.length = 15
    · simp [h15]
    · have : str.length = 16 := by omega
      simp [this]
  · split at h
    · cases h
    split at h <;> cases h
    by_cases h15 : str.length = 15
    · simp [h15]
    · have : str.length = 16 := by omega
      simp [this]

/-- Eight bytes are 15 or 16 characters in either layout (R127, R128). -/
theorem bcdToImei_length {m : ImeiLayout} {b str : List Byte} (hb : b.length = 8) (h : bcdToImei m b = .ok str) :
    str.length = 15 ∨ str.length = 16 := by
  cases m <;> simp only [bcdToImei, bcdToImeiPlain, bcdToImeiSwapped] at h
  · split at h
    · cases h
    split at h <;> cases h <;> simp [hb]
  · split at h
    · cases h
    split at h
    · cases h; simp [hb]
    split at h <;> cases h
    simp [hb]

/-- A header byte names at most seven IDs (R171). -/
theorem idsOfHeaderByte_length_le (k : Nat) (b : Byte) : (idsOfHeaderByte k b).length ≤ 7 := by
  rw [idsOfHeaderByte, List.length_map]
  exact Nat.le_trans (List.length_filter_le _ _) (by simp)

/-- The header loop consumes bytes it has, and finds at most seven IDs a byte (R172, R174). -/
theorem parseHeaderFrom_bounds {k : Nat} {b : List Byte} {ids : List Nat} {n : Nat}
    (h : parseHeaderFrom k b = .ok (ids, n)) : k < n ∧ n ≤ k + b.length ∧ ids.length ≤ 7 * (n - k) := by
  induction b generalizing k ids n with
  | nil => cases h
  | cons x rest ih =>
    have hx := idsOfHeaderByte_length_le k x
    unfold parseHeaderFrom at h
    split at h
    · cases hr : parseHeaderFrom (k + 1) rest with
      | error e => rw [hr] at h; cases h
      | ok r =>
        rw [hr] at h
        cases h
        have := ih hr
        simp only [List.length_append, List.length_cons]
        omega
    · cases h
      simp only [List.length_cons]
      omega

@[simp] theorem headerBytes_length (ids : List Nat) : (headerBytes ids).length = headerLength ids := by
  simp [headerBytes]

/-- The shortest header is one byte (R170, R173). -/
theorem headerLength_pos (ids : List Nat) : 1 ≤ headerLength ids := Nat.le_max_left ..

end Sys2Proof.Machine
end

