-- ==== Sys2Proof/Laws/PerInstr.lean ====
section
/-! SUPPORT. Statements made constructor by constructor. Family RowMatch is about encodings only: the word of an
instruction carries its own row's match under its row's mask, and no other row's (spec 30_encoding R73). -/

namespace Sys2Proof.Laws.RowMatch

/-- The word of `i` selects exactly the row that has the mnemonic of `i` (R73: "a word w selects the row when
`w & mask == match`"). -/
def Statement (i : Instr) : Prop :=
  (opcodeTable.filter fun row => encode i &&& row.mask == row.matchWord).map OpcodeRow.mnemonic = [i.mnemonic]

theorem rdint (w : Width) (e : Endian) (sg : Sign) : Statement (.rdint w e sg) := by
  unfold Statement; cases w <;> cases e <;> cases sg <;> decide

theorem wrint (w : Width) (e : Endian) (sg : Sign) : Statement (.wrint w e sg) := by
  unfold Statement; cases w <;> cases e <;> cases sg <;> decide

theorem rdf32le : Statement .rdf32le := by unfold Statement; decide

theorem wrf32le : Statement .wrf32le := by unfold Statement; decide

theorem bcd2str : Statement .bcd2str := by unfold Statement; decide

theorem str2bcd : Statement .str2bcd := by unfold Statement; decide

theorem imei2bcd (m : ImeiLayout) : Statement (.imei2bcd m) := by unfold Statement; cases m <;> decide

theorem bcd2imei (m : ImeiLayout) : Statement (.bcd2imei m) := by unfold Statement; cases m <;> decide

theorem xorc : Statement .xorc := by unfold Statement; decide

theorem xorv : Statement .xorv := by unfold Statement; decide

theorem c16c : Statement .c16c := by unfold Statement; decide

theorem c16v : Statement .c16v := by unfold Statement; decide

theorem c8c : Statement .c8c := by unfold Statement; decide

theorem c8v : Statement .c8v := by unfold Statement; decide

theorem hdrp : Statement .hdrp := by unfold Statement; decide

theorem hdrb : Statement .hdrb := by unfold Statement; decide

theorem fhdr : Statement .fhdr := by unfold Statement; decide

theorem fchk : Statement .fchk := by unfold Statement; decide

end Sys2Proof.Laws.RowMatch
end

