-- ==== Sys2Proof/Laws/Step.lean ====
section
/-! SUPPORT. What a step is once the next host action is known, and what taking each host action comes to. -/

namespace Sys2Proof.Machine

/-- A step with a host action to come performs it, at the state with the action taken and the counter advanced. -/
theorem step_cons {s : State} {a : HostAction} {rest : List HostAction} (h : s.pending = a :: rest) :
    step s = performAction a { s with pending := rest, freeCtr := s.freeCtr + 1 } := by
  simp [step, nextAction, h]

@[simp] theorem performAction_issue (w : CmdWord) (s : State) : performAction (.issue w) s = issue w s := rfl

@[simp] theorem performAction_reset (s : State) : performAction .reset s = .next (hostReset s) := rfl

@[simp] theorem performAction_read_reg (r : Reg) (s : State) :
    performAction (.read (.reg r)) s = .next (hostRead (.reg r) s) := rfl

/-- A register write inside its range. -/
theorem performAction_writeReg {r : Reg} {v : Nat} {s : State} (h : r.writable s.config v = true) :
    performAction (.writeReg r v) s = .next (hostWriteReg r v s) := if_pos h

/-- An action that is not well formed is refused by name. -/
theorem performAction_refused {a : HostAction} {s : State} (h : a.wellFormed s.config = false) :
    performAction a s = .refused (.outsideHostContract a) := by
  unfold performAction
  rw [if_neg (by simp [h])]

theorem issue_of_decode {w : CmdWord} {i : Instr} (s : State) (h : decode w = .ok i) : issue w s = exec i s := by
  simp [issue, h]

theorem issue_of_reject {w : CmdWord} {r : Reject} (s : State) (h : decode w = .error r) :
    issue w s = .next (raise .illegalCommand s) := by
  simp [issue, h]

end Sys2Proof.Machine
end

