-- ==== Sys2Proof/Tests/Slice0.lean ====
section
/-! SUPPORT. Tests on fixed values, taken from the spec (95_test_vectors, the examples of the command rules, 30_encoding
R77), and one witness theorem for each statement of Obligations.lean that has hypotheses. -/

namespace Sys2Proof.Tests

open Sys2Proof.Machine Sys2Proof.Claims

/-! ### Small states -/

/-- The reset state with bytes loaded into IBUF and ILEN set (the directive LOAD of 30_encoding R78). -/
def load (bytes : List Byte) : State :=
  { State.reset with ibuf := Memory.listFrom 0 bytes, ilen := bytes.length }

/-- `load`, with an operand span. -/
def spanOf (bytes : List Byte) (off len : Nat) : State :=
  { load bytes with off := BitVec.ofNat 64 off, len := BitVec.ofNat 64 len }

/-- The reset state with an ID list (the directive IDS of R78). -/
def withIds (ids : List Nat) : State :=
  { State.reset with idl := Memory.listFrom 0 (ids.map (BitVec.ofNat 16)), idn := ids.length }

/-- The reset state with host actions to come. -/
def facing (actions : List HostAction) : State := { State.reset with pending := actions }

/-- The state an outcome goes on in, or `s` where it stops. -/
def after (s : State) : Host.Outcome State Fault Refusal → State
  | .next t => t
  | .fault _ => s
  | .refused _ => s

/-- The state after one command. -/
def run (i : Instr) (s : State) : State := after s (exec i s)

/-- The bytes at OBUF[0 .. OLEN). -/
def out (s : State) : List (Option Byte) := (List.range s.olen).map s.obufAt

/-- The characters of a decimal string. -/
def chars (digits : List Nat) : List Byte := digits.map fun d => BitVec.ofNat 8 (0x30 + d)

/-- The 22 bytes of the Concox login frame of 95_test_vectors E7. -/
def frameBytes : List Byte :=
  [0x78#8, 0x78#8, 0x11#8, 0x01#8, 0x08#8, 0x67#8, 0x44#8, 0x00#8, 0x66#8, 0x76#8, 0x98#8] ++
  [0x78#8, 0x80#8, 0x66#8, 0x00#8, 0x01#8, 0x04#8, 0x79#8, 0xDA#8, 0xE4#8, 0x0D#8, 0x0A#8]

/-- The frame under configuration A of 95_test_vectors 2.10, with an operand span. -/
def frameA (off len : Nat) : State :=
  { spanOf frameBytes off len with fcfg := 0x00020142#32, fpre := 0x00007878#32 }

/-- The frame after FHDR, ready for FCHK. -/
def gateA (off len : Nat) (claim : Word) : State :=
  { frameA off len with fst := .readingBody, claim := claim }

/-! ### WellFormed: an ill-formed term for each check (20_memory R60, R50, 70_reset R226) -/

theorem test_illFormed_write_off : HostAction.wellFormed Config.default (.writeReg .off (2 ^ 64)) = false := by decide
theorem test_illFormed_write_len : HostAction.wellFormed Config.default (.writeReg .len (2 ^ 64)) = false := by decide
theorem test_illFormed_write_val : HostAction.wellFormed Config.default (.writeReg .val (2 ^ 64)) = false := by decide
theorem test_illFormed_write_claim : HostAction.wellFormed Config.default (.writeReg .claim (2 ^ 64)) = false := by decide
theorem test_illFormed_write_fcfg : HostAction.wellFormed Config.default (.writeReg .fcfg (2 ^ 32)) = false := by decide
theorem test_illFormed_write_fpre : HostAction.wellFormed Config.default (.writeReg .fpre (2 ^ 32)) = false := by decide
theorem test_illFormed_write_ilen : HostAction.wellFormed Config.default (.writeReg .ilen 2049) = false := by decide
theorem test_illFormed_write_idn : HostAction.wellFormed Config.default (.writeReg .idn 14337) = false := by decide

theorem test_illFormed_write_readOnly :
    [Reg.res, .cnt, .status, .err, .vok, .fst, .olen].all
      (fun r => HostAction.wellFormed Config.default (.writeReg r 0) == false) = true := by decide

theorem test_illFormed_ibuf_write : HostAction.wellFormed Config.default (.writeIbuf 2048 0#8) = false := by decide
theorem test_illFormed_idl_write : HostAction.wellFormed Config.default (.writeIdl 14336 0#16) = false := by decide
theorem test_illFormed_ibuf_read : HostAction.wellFormed Config.default (.read (.ibuf 2048)) = false := by decide
theorem test_illFormed_obuf_read : HostAction.wellFormed Config.default (.read (.obuf 4096)) = false := by decide
theorem test_illFormed_idl_read : HostAction.wellFormed Config.default (.read (.idl 14336)) = false := by decide

theorem test_wellFormed_limits :
    [HostAction.writeReg .off (2 ^ 64 - 1), .writeReg .fcfg (2 ^ 32 - 1), .writeReg .ilen 2048, .writeReg .idn 14336,
      .writeIbuf 2047 0#8, .writeIdl 14335 0#16, .read (.ibuf 2047), .read (.obuf 4095), .read (.idl 14335),
      .issue 0xFFFFFFFF#32, .reset].all (HostAction.wellFormed Config.default) = true := by decide

theorem test_illFormed_config :
    Config.wf { Config.default with ibufCap := 31 } = false ∧
    Config.wf { Config.default with ibufCap := 9363 } = false := by decide

/-- A host write of RES is refused by name (70_reset R226, log entry 3). -/
theorem test_step_refuses_write_of_res :
    step (facing [.writeReg .res 0]) = .refused (.outsideHostContract (.writeReg .res 0)) := rfl

/-! ### Decoding: words written out from 30_encoding R71 to R73 and the table of 95_test_vectors 2.1

Format I is `0…0 SG BE WC OPC`, format M `0…0 M 0000 OPC`, format Z `0…0 OPC`. -/

theorem test_decode_rdint : decode 0b00000000000000000000_1_0_10_00000001#32 = .ok (.rdint .w4 .little .signed) := by rfl
theorem test_decode_wrint : decode 0b00000000000000000000_1_1_11_00000010#32 = .ok (.wrint .w8 .big .signed) := by rfl
theorem test_decode_rdf32le : decode 0b000000000000000000000000_00000011#32 = .ok (.rdf32le) := by rfl
theorem test_decode_wrf32le : decode 0b000000000000000000000000_00000100#32 = .ok (.wrf32le) := by rfl
theorem test_decode_bcd2str : decode 0b000000000000000000000000_00000101#32 = .ok (.bcd2str) := by rfl
theorem test_decode_str2bcd : decode 0b000000000000000000000000_00000110#32 = .ok (.str2bcd) := by rfl
theorem test_decode_imei2bcd_plain : decode 0b0000000000000000000_0_0000_00000111#32 = .ok (.imei2bcd .plain) := by rfl
theorem test_decode_imei2bcd_swapped : decode 0b0000000000000000000_1_0000_00000111#32 = .ok (.imei2bcd .swapped) := by rfl
theorem test_decode_bcd2imei : decode 0b0000000000000000000_1_0000_00001000#32 = .ok (.bcd2imei .swapped) := by rfl
theorem test_decode_xorc : decode 0b000000000000000000000000_00010000#32 = .ok (.xorc) := by rfl
theorem test_decode_xorv : decode 0b000000000000000000000000_00010001#32 = .ok (.xorv) := by rfl
theorem test_decode_c16c : decode 0b000000000000000000000000_00010010#32 = .ok (.c16c) := by rfl
theorem test_decode_c16v : decode 0b000000000000000000000000_00010011#32 = .ok (.c16v) := by rfl
theorem test_decode_c8c : decode 0b000000000000000000000000_00010100#32 = .ok (.c8c) := by rfl
theorem test_decode_c8v : decode 0b000000000000000000000000_00010101#32 = .ok (.c8v) := by rfl
theorem test_decode_hdrp : decode 0b000000000000000000000000_00100000#32 = .ok (.hdrp) := by rfl
theorem test_decode_hdrb : decode 0b000000000000000000000000_00100001#32 = .ok (.hdrb) := by rfl
theorem test_decode_fhdr : decode 0b000000000000000000000000_00110000#32 = .ok (.fhdr) := by rfl
theorem test_decode_fchk : decode 0b000000000000000000000000_00110001#32 = .ok (.fchk) := by rfl

/-- Each field alone: WC 0 to 3, BE, SG (R72). -/
theorem test_decode_fields :
    decode 0x00000001#32 = .ok (.rdint .w1 .little .unsigned) ∧
    decode 0x00000101#32 = .ok (.rdint .w2 .little .unsigned) ∧
    decode 0x00000201#32 = .ok (.rdint .w4 .little .unsigned) ∧
    decode 0x00000301#32 = .ok (.rdint .w8 .little .unsigned) ∧
    decode 0x00000401#32 = .ok (.rdint .w1 .big .unsigned) ∧
    decode 0x00000801#32 = .ok (.rdint .w1 .little .signed) := ⟨rfl, rfl, rfl, rfl, rfl, rfl⟩

/-- R74, and the list of illegal words of 95_test_vectors 2.1: unassigned OPC. -/
theorem test_decode_unassigned :
    [0x00000000#32, 0x00000009#32, 0x0000000F#32, 0x00000016#32, 0x0000001F#32, 0x00000022#32, 0x0000002F#32,
      0x00000032#32, 0x000000FF#32, 0xFFFFFFFF#32].all
      (fun w => match decode w with | .error .unassignedOpcode => true | _ => false) = true := by decide

/-- The same list: a reserved bit set. -/
theorem test_decode_reserved :
    [0x00000103#32, 0x00000412#32, 0x00000130#32, 0x00001010#32, 0x00001012#32, 0x00001030#32, 0x00001001#32,
      0x00001F01#32, 0x00000107#32, 0x00000808#32, 0x00002001#32, 0x00002007#32, 0x00002008#32, 0x00010012#32,
      0x80000001#32].all
      (fun w => match decode w with | .error .reservedBitSet => true | _ => false) = true := by decide

theorem test_encode_examples :
    encode (.rdint .w4 .little .signed) = 0x00000A01#32 ∧ encode (.rdint .w2 .big .unsigned) = 0x00000501#32 ∧
    encode (.wrint .w8 .big .signed) = 0x00000F02#32 ∧ encode (.wrint .w1 .little .unsigned) = 0x00000002#32 ∧
    encode (.bcd2imei .swapped) = 0x00001008#32 ∧ encode .c16v = 0x00000013#32 := by decide

/-- The host's two questions, on a word of the table. -/
theorem test_decodeTableWord :
    decodeTableWord 32 0x00000A01 = some (.rdint .w4 .little .signed) ∧ decodeTableWord 32 0 = none := ⟨rfl, rfl⟩

/-- C8C as the first thing issued after reset (70_reset R222). -/
theorem test_withFetchWord_runs :
    (after State.reset (step (State.reset.withFetchWord 32 0x00000014))).res = 0xFF#64 := by decide

/-! ### The CRC tables, against the rows printed under 42_checksum R147 and R153 -/

theorem test_t16_rows_0_to_7 :
    ((List.range 64).map fun j => t16Entry (BitVec.ofNat 8 (0 + j))) =
      [0x0000#16, 0x1189#16, 0x2312#16, 0x329B#16, 0x4624#16, 0x57AD#16, 0x6536#16, 0x74BF#16] ++
      [0x8C48#16, 0x9DC1#16, 0xAF5A#16, 0xBED3#16, 0xCA6C#16, 0xDBE5#16, 0xE97E#16, 0xF8F7#16] ++
      [0x1081#16, 0x0108#16, 0x3393#16, 0x221A#16, 0x56A5#16, 0x472C#16, 0x75B7#16, 0x643E#16] ++
      [0x9CC9#16, 0x8D40#16, 0xBFDB#16, 0xAE52#16, 0xDAED#16, 0xCB64#16, 0xF9FF#16, 0xE876#16] ++
      [0x2102#16, 0x308B#16, 0x0210#16, 0x1399#16, 0x6726#16, 0x76AF#16, 0x4434#16, 0x55BD#16] ++
      [0xAD4A#16, 0xBCC3#16, 0x8E58#16, 0x9FD1#16, 0xEB6E#16, 0xFAE7#16, 0xC87C#16, 0xD9F5#16] ++
      [0x3183#16, 0x200A#16, 0x1291#16, 0x0318#16, 0x77A7#16, 0x662E#16, 0x54B5#16, 0x453C#16] ++
      [0xBDCB#16, 0xAC42#16, 0x9ED9#16, 0x8F50#16, 0xFBEF#16, 0xEA66#16, 0xD8FD#16, 0xC974#16] := by decide +kernel

theorem test_t16_rows_8_to_15 :
    ((List.range 64).map fun j => t16Entry (BitVec.ofNat 8 (64 + j))) =
      [0x4204#16, 0x538D#16, 0x6116#16, 0x709F#16, 0x0420#16, 0x15A9#16, 0x2732#16, 0x36BB#16] ++
      [0xCE4C#16, 0xDFC5#16, 0xED5E#16, 0xFCD7#16, 0x8868#16, 0x99E1#16, 0xAB7A#16, 0xBAF3#16] ++
      [0x5285#16, 0x430C#16, 0x7197#16, 0x601E#16, 0x14A1#16, 0x0528#16, 0x37B3#16, 0x263A#16] ++
      [0xDECD#16, 0xCF44#16, 0xFDDF#16, 0xEC56#16, 0x98E9#16, 0x8960#16, 0xBBFB#16, 0xAA72#16] ++
      [0x6306#16, 0x728F#16, 0x4014#16, 0x519D#16, 0x2522#16, 0x34AB#16, 0x0630#16, 0x17B9#16] ++
      [0xEF4E#16, 0xFEC7#16, 0xCC5C#16, 0xDDD5#16, 0xA96A#16, 0xB8E3#16, 0x8A78#16, 0x9BF1#16] ++
      [0x7387#16, 0x620E#16, 0x5095#16, 0x411C#16, 0x35A3#16, 0x242A#16, 0x16B1#16, 0x0738#16] ++
      [0xFFCF#16, 0xEE46#16, 0xDCDD#16, 0xCD54#16, 0xB9EB#16, 0xA862#16, 0x9AF9#16, 0x8B70#16] := by decide +kernel

theorem test_t16_rows_16_to_23 :
    ((List.range 64).map fun j => t16Entry (BitVec.ofNat 8 (128 + j))) =
      [0x8408#16, 0x9581#16, 0xA71A#16, 0xB693#16, 0xC22C#16, 0xD3A5#16, 0xE13E#16, 0xF0B7#16] ++
      [0x0840#16, 0x19C9#16, 0x2B52#16, 0x3ADB#16, 0x4E64#16, 0x5FED#16, 0x6D76#16, 0x7CFF#16] ++
      [0x9489#16, 0x8500#16, 0xB79B#16, 0xA612#16, 0xD2AD#16, 0xC324#16, 0xF1BF#16, 0xE036#16] ++
      [0x18C1#16, 0x0948#16, 0x3BD3#16, 0x2A5A#16, 0x5EE5#16, 0x4F6C#16, 0x7DF7#16, 0x6C7E#16] ++
      [0xA50A#16, 0xB483#16, 0x8618#16, 0x9791#16, 0xE32E#16, 0xF2A7#16, 0xC03C#16, 0xD1B5#16] ++
      [0x2942#16, 0x38CB#16, 0x0A50#16, 0x1BD9#16, 0x6F66#16, 0x7EEF#16, 0x4C74#16, 0x5DFD#16] ++
      [0xB58B#16, 0xA402#16, 0x9699#16, 0x8710#16, 0xF3AF#16, 0xE226#16, 0xD0BD#16, 0xC134#16] ++
      [0x39C3#16, 0x284A#16, 0x1AD1#16, 0x0B58#16, 0x7FE7#16, 0x6E6E#16, 0x5CF5#16, 0x4D7C#16] := by decide +kernel

theorem test_t16_rows_24_to_31 :
    ((List.range 64).map fun j => t16Entry (BitVec.ofNat 8 (192 + j))) =
      [0xC60C#16, 0xD785#16, 0xE51E#16, 0xF497#16, 0x8028#16, 0x91A1#16, 0xA33A#16, 0xB2B3#16] ++
      [0x4A44#16, 0x5BCD#16, 0x6956#16, 0x78DF#16, 0x0C60#16, 0x1DE9#16, 0x2F72#16, 0x3EFB#16] ++
      [0xD68D#16, 0xC704#16, 0xF59F#16, 0xE416#16, 0x90A9#16, 0x8120#16, 0xB3BB#16, 0xA232#16] ++
      [0x5AC5#16, 0x4B4C#16, 0x79D7#16, 0x685E#16, 0x1CE1#16, 0x0D68#16, 0x3FF3#16, 0x2E7A#16] ++
      [0xE70E#16, 0xF687#16, 0xC41C#16, 0xD595#16, 0xA12A#16, 0xB0A3#16, 0x8238#16, 0x93B1#16] ++
      [0x6B46#16, 0x7ACF#16, 0x4854#16, 0x59DD#16, 0x2D62#16, 0x3CEB#16, 0x0E70#16, 0x1FF9#16] ++
      [0xF78F#16, 0xE606#16, 0xD49D#16, 0xC514#16, 0xB1AB#16, 0xA022#16, 0x92B9#16, 0x8330#16] ++
      [0x7BC7#16, 0x6A4E#16, 0x58D5#16, 0x495C#16, 0x3DE3#16, 0x2C6A#16, 0x1EF1#16, 0x0F78#16] := by decide +kernel

/-- R153: the printed default table is the one of its formula. -/
theorem test_crc8_default_table :
    ((List.range 256).all fun j =>
      crc8Lookup crc8DefaultTable (BitVec.ofNat 8 j) == crcRounds crc8Round 8 (BitVec.ofNat 8 j)) = true := by
  decide +kernel

/-! ### One command each -/

/-- 95_test_vectors 2.2: `RDINT 4, LE, S` on `00 00 00 80` is -2^31. -/
theorem test_rdint_sign :
    (run (.rdint .w4 .little .signed) (load [0x00#8, 0x00#8, 0x00#8, 0x80#8])).res = 0xFFFFFFFF80000000#64 := by decide

/-- 2.2: OFF = 2^64-1 does not wrap around. -/
theorem test_rdint_no_wrap :
    (run (.rdint .w1 .little .unsigned) (spanOf [0xAA#8, 0xBB#8, 0xCC#8] 0xFFFFFFFFFFFFFFFF 0)).err
      = .truncatedPayloadError := by decide

/-- 2.2: `WRINT 2, BE, S` of -32768. -/
theorem test_wrint_big_endian :
    out (run (.wrint .w2 .big .signed) { State.reset with val := 0xFFFFFFFFFFFF8000#64 }) = [some 0x80#8, some 0x00#8] := by
  decide

/-- 2.2: `WRINT 1, LE, U` of 2^64-1 is out of range, not -1, and writes nothing. -/
theorem test_wrint_out_of_range :
    let t := run (.wrint .w1 .little .unsigned) { State.reset with val := 0xFFFFFFFFFFFFFFFF#64 }
    t.err = .valueOutOfRange ∧ t.olen = 0 := by decide

/-- 2.3: a signalling NaN moves unchanged. -/
theorem test_rdf32le_signalling_nan :
    (run .rdf32le (load [0x01#8, 0x00#8, 0x80#8, 0x7F#8])).res = 0x7F800001#64 := by decide

/-- 2.3. -/
theorem test_wrf32le_order :
    out (run .wrf32le { State.reset with val := 0x425F05F0#64 }) =
      [some 0xF0#8, some 0x05#8, some 0x5F#8, some 0x42#8] := by decide

/-- 2.3: VAL[63:32] must be 0. -/
theorem test_wrf32le_out_of_range :
    (run .wrf32le { State.reset with val := 0xFFFFFFFF3F800000#64 }).err = .valueOutOfRange := by decide

/-- 2.3: the readings of -2.5, the smallest subnormal and a signalling NaN. -/
theorem test_floatDatum :
    floatDatum 0xC0200000#32 = .finite true 0xA00000 (-22) ∧ floatDatum 0x00000001#32 = .finite false 1 (-149) ∧
    floatDatum 0x7F800001#32 = .nan false := by decide

/-- 2.4: leading zeros are kept. -/
theorem test_bcd2str_leading_zeros :
    out (run .bcd2str (spanOf [0x00#8, 0x07#8] 0 2)) = (chars [0, 0, 0, 7]).map some := by decide

/-- 2.4: F is not padding here. -/
theorem test_bcd2str_nibble :
    (run .bcd2str (spanOf [0x12#8, 0x3F#8] 0 2)).err = .bcdNibbleError := by decide

/-- 2.4: "123" in two bytes is padded on the left. -/
theorem test_str2bcd_padding :
    out (run .str2bcd { spanOf (chars [1, 2, 3]) 0 3 with val := 2#64 }) = [some 0x01#8, some 0x23#8] := by decide

/-- 2.4: 0x3A is one above '9'. -/
theorem test_str2bcd_not_a_digit :
    (run .str2bcd { spanOf [0x31#8, 0x32#8, 0x3A#8, 0x34#8] 0 4 with val := 2#64 }).err = .valueOutOfRange := by decide

/-- 2.5, E5: the swapped layout of "867440066769878". -/
theorem test_imei2bcd_swapped :
    out (run (.imei2bcd .swapped) (spanOf (chars [8, 6, 7, 4, 4, 0, 0, 6, 6, 7, 6, 9, 8, 7, 8]) 0 15)) =
      [some 0x68#8, some 0x47#8, some 0x04#8, some 0x60#8, some 0x76#8, some 0x96#8, some 0x78#8, some 0xF8#8] := by
  decide

/-- 2.5: 16 digits that start with 0 are refused in the plain layout. -/
theorem test_imei2bcd_plain_leading_zero :
    (run (.imei2bcd .plain) (spanOf (chars [0, 1, 2, 3, 4, 5, 6, 7, 8, 9, 0, 1, 2, 3, 4, 5]) 0 16)).err
      = .valueOutOfRange := by decide

/-- 2.5: one leading 0 is dropped, the next kept. -/
theorem test_bcd2imei_plain_drops_one_zero :
    out (run (.bcd2imei .plain) (load [0x00#8, 0x12#8, 0x34#8, 0x56#8, 0x78#8, 0x90#8, 0x12#8, 0x34#8])) =
      (chars [0, 1, 2, 3, 4, 5, 6, 7, 8, 9, 0, 1, 2, 3, 4]).map some := by decide

/-- 2.5: F outside the last nibble. -/
theorem test_bcd2imei_swapped_f :
    (run (.bcd2imei .swapped) (load [0x6F#8, 0x47#8, 0x04#8, 0x60#8, 0x76#8, 0x96#8, 0x78#8, 0xF8#8])).err
      = .bcdNibbleError := by decide

/-- 2.6. -/
theorem test_xorc : (run .xorc (spanOf [0x40#8, 0x4E#8, 0x54#8, 0x43#8] 0 4)).res = 0x19#64 := by decide

/-- 2.6: CLAIM is compared full width, and a mismatch is not an error. -/
theorem test_xorv_full_width :
    let t := run .xorv { spanOf [0x01#8, 0x02#8, 0x04#8, 0x08#8] 0 4 with claim := 0x10F#64 }
    t.res = 0x0F#64 ∧ t.vok = false ∧ t.err = .ok := by decide

/-- E7: the CRC of the Concox frame. -/
theorem test_c16c_concox : (run .c16c (frameA 2 16)).res = 0xDAE4#64 := by decide +kernel

/-- 2.7. -/
theorem test_c16v_concox : (run .c16v { frameA 2 16 with claim := 0xDAE4#64 }).vok = true := by decide +kernel

/-- 2.8, with the default table. -/
theorem test_c8c : (run .c8c (spanOf [0x07#8, 0x0A#8, 0x0B#8, 0x0C#8] 0 4)).res = 0xFC#64 := by decide +kernel

/-- 2.8: on the empty buffer CLAIM = 0xFF matches. -/
theorem test_c8v_empty : (run .c8v { State.reset with claim := 0xFF#64 }).vok = true := by decide

/-- 2.9: `81 02`. -/
theorem test_hdrp :
    let t := run .hdrp (load [0x81#8, 0x02#8])
    (List.range t.idn).map t.idlAt = [some 1#16, some 9#16] ∧ t.cnt = 2#64 := by decide

/-- 2.9: a failure keeps the old list. -/
theorem test_hdrp_failure_keeps_list :
    let t := run .hdrp { load [0x81#8] with idl := [(0, 5#16), (1, 6#16)], idn := 2, cnt := 77#64 }
    t.err = .malformedHeaderError ∧ (List.range t.idn).map t.idlAt = [some 5#16, some 6#16] ∧ t.cnt = 77#64 := by decide

/-- 2.9: order and repeats do not matter. -/
theorem test_hdrb : out (run .hdrb (withIds [9, 1, 9])) = [some 0x81#8, some 0x02#8] := by decide

/-- 2.9: ID 0. -/
theorem test_hdrb_zero : (run .hdrb (withIds [1, 0])).err = .valueOutOfRange := by decide

/-- 2.10, configuration A. -/
theorem test_fhdr :
    let t := run .fhdr (frameA 0 0)
    t.res = 0x11#64 ∧ t.cnt = 3#64 ∧ t.fst = .readingBody ∧ t.err = .ok := by decide

/-- 2.10: the second preamble byte changed. -/
theorem test_fhdr_preamble :
    let t := run .fhdr { frameA 0 0 with fpre := 0x00007978#32 }
    t.err = .invalidPreamble ∧ t.fst = .rejected ∧ t.res = 0#64 := by decide

/-- 2.10. -/
theorem test_fchk :
    let t := run .fchk (gateA 2 16 0xDAE4#64)
    t.res = 0xDAE4#64 ∧ t.vok = true ∧ t.err = .ok ∧ t.fst = .decoded := by decide +kernel

/-- 2.10: CKM = 0, a mismatch is reported and the frame is still Decoded. -/
theorem test_fchk_not_mandatory :
    let t := run .fchk { gateA 2 16 0xDAE5#64 with fcfg := 0x00020042#32 }
    t.vok = false ∧ t.err = .checksumMismatch ∧ t.fst = .decoded := by decide +kernel

/-- 2.1: an illegal word marks STATUS only. -/
theorem test_issue_illegal :
    let s : State := { facing [.issue 0x00002008#32] with res := 0x55#64, vok := true, fst := .readingBody }
    let t := after s (step s)
    t.status = 0x0000004F#32 ∧ t.res = 0x55#64 := by decide
/-! ### Witnesses: for each statement with hypotheses, a state and operands that meet them, clause by clause, at the
ends of the ranges -/

theorem witness_DecodeOfEncode : (Instr.rdint .w8 .big .signed).wellFormed = true := rfl

theorem witness_WordOfDecodedInstruction : decode 0x00000F01#32 = .ok (.rdint .w8 .big .signed) := rfl

theorem witness_IllegalWordOnlyMarksStatus :
    (illegalWord 0x00000000#32 ∧ illegalWord 0x80000001#32 ∧ illegalWord 0x00000107#32 ∧ illegalWord 0x00001001#32) ∧
    ∃ s : State, s.pending = .issue 0x00002001#32 :: [.reset] ∧ illegalWord 0x00002001#32 := by
  refine ⟨⟨?_, ?_, ?_, ?_⟩, facing [.issue 0x00002001#32, .reset], rfl, ?_⟩ <;> unfold illegalWord <;> decide

theorem witness_StepRunsDecodedCommand :
    ∃ s : State, s.pending = .issue 0x00000013#32 :: [.read (.reg .vok)] ∧ decode 0x00000013#32 = .ok .c16v :=
  ⟨facing [.issue 0x00000013#32, .read (.reg .vok)], rfl, rfl⟩

theorem witness_HostWriteRegisterTakesValue :
    (facing [.writeReg .off (2 ^ 64 - 1)]).pending = .writeReg .off (2 ^ 64 - 1) :: [] ∧
    (facing [.writeReg .len 0]).pending = .writeReg .len 0 :: [] ∧
    (facing [.writeReg .val (2 ^ 64 - 1)]).pending = .writeReg .val (2 ^ 64 - 1) :: [] ∧
    (facing [.writeReg .claim 1]).pending = .writeReg .claim 1 :: [] ∧
    (facing [.writeReg .fcfg (2 ^ 32 - 1)]).pending = .writeReg .fcfg (2 ^ 32 - 1) :: [] ∧
    (facing [.writeReg .fpre 0x7878]).pending = .writeReg .fpre 0x7878 :: [] ∧
    (facing [.writeReg .ilen 2048]).pending = .writeReg .ilen 2048 :: [] ∧
      2048 ≤ (facing [.writeReg .ilen 2048]).config.ibufCap ∧
    (facing [.writeReg .idn 14336]).pending = .writeReg .idn 14336 :: [] ∧
      14336 ≤ 7 * (facing [.writeReg .idn 14336]).config.ibufCap := by
  refine ⟨rfl, rfl, rfl, rfl, rfl, rfl, rfl, ?_, rfl, ?_⟩ <;> decide

theorem witness_HostWriteBufferReadsBack :
    ((facing [.writeIbuf 2047 0xAB#8]).pending = .writeIbuf 2047 0xAB#8 :: [] ∧
      2047 < (facing [.writeIbuf 2047 0xAB#8]).config.ibufCap) ∧
    ((facing [.writeIdl 14335 0xABCD#16]).pending = .writeIdl 14335 0xABCD#16 :: [] ∧
      14335 < 7 * (facing [.writeIdl 14335 0xABCD#16]).config.ibufCap) := by
  refine ⟨⟨rfl, ?_⟩, rfl, ?_⟩ <;> decide

/-- A state of a run: the frame in IBUF, its IMEI in OBUF, one ID listed, FCHK just done, and one read to come. -/
def busy (loc : Loc) : State :=
  { frameA 4 16 with
    res := 0xDAE4#64, cnt := 16#64, vok := true, fst := .decoded, obuf := [(0, 0x38#8), (1, 0x36#8)], olen := 2,
    idl := [(0, 9#16), (5, 0xFFFF#16)], idn := 1, pending := [.read loc] }

theorem busy_inv (loc : Loc) : (busy loc).Inv := by
  have h : (busy (.reg .off)).Inv := by constructor <;> decide
  exact ⟨h.config_wf, h.ilen_le, h.olen_le, h.idn_le, h.ibuf_wf, h.ibuf_lt, h.obuf_indices, h.idl_wf, h.idl_lt, h.cnt_le,
    h.fst_observable, h.err_produced, h.vok_err⟩

theorem witness_HostReadReturnsValue :
    (∀ r : Reg, (busy (.reg r)).pending = .read (.reg r) :: [] ∧
      hostMay (busy (.reg r)).config.ibufCap (.read (.reg r)) ∧ (busy (.reg r)).Inv) ∧
    ((busy (.ibuf 21)).pending = .read (.ibuf 21) :: [] ∧ hostMay (busy (.ibuf 21)).config.ibufCap (.read (.ibuf 21)) ∧
      (busy (.ibuf 21)).ibufAt 21 = some 0x0A#8) ∧
    ((busy (.obuf 1)).pending = .read (.obuf 1) :: [] ∧ hostMay (busy (.obuf 1)).config.ibufCap (.read (.obuf 1)) ∧
      (busy (.obuf 1)).obufAt 1 = some 0x36#8) ∧
    ((busy (.idl 0)).pending = .read (.idl 0) :: [] ∧ hostMay (busy (.idl 0)).config.ibufCap (.read (.idl 0)) ∧
      (busy (.idl 0)).idlAt 0 = some 9#16) := by
  exact ⟨fun r => ⟨rfl, trivial, busy_inv _⟩, ⟨rfl, (by decide : 21 < 2048), by decide⟩,
    ⟨rfl, (by decide : 1 < 2 * 2048), by decide⟩, rfl, (by decide : 0 < 7 * 2048), by decide⟩

/-- The last index of each buffer, in and just out of range (R50: 2048, 4096 and 14336 locations by default). -/
theorem witness_hostMay_indices :
    (hostMay 2048 (.read (.ibuf 2047)) ∧ ¬ hostMay 2048 (.read (.ibuf 2048))) ∧
    (hostMay 2048 (.read (.obuf 4095)) ∧ ¬ hostMay 2048 (.read (.obuf 4096))) ∧
    (hostMay 2048 (.read (.idl 14335)) ∧ ¬ hostMay 2048 (.read (.idl 14336))) ∧
    (hostMay 2048 (.writeIbuf 2047 0#8) ∧ ¬ hostMay 2048 (.writeIbuf 2048 0#8)) ∧
    (hostMay 2048 (.writeIdl 14335 0#16) ∧ ¬ hostMay 2048 (.writeIdl 14336 0#16)) := by
  simp [hostMay]

/-- The largest value of each register the host writes, in and just out of range (R60). -/
theorem witness_hostMay_values :
    (∀ r ∈ [Reg.off, .len, .val, .claim],
      hostMay 2048 (.writeReg r (2 ^ 64 - 1)) ∧ ¬ hostMay 2048 (.writeReg r (2 ^ 64))) ∧
    (∀ r ∈ [Reg.fcfg, .fpre], hostMay 2048 (.writeReg r (2 ^ 32 - 1)) ∧ ¬ hostMay 2048 (.writeReg r (2 ^ 32))) ∧
    (hostMay 2048 (.writeReg .ilen 2048) ∧ ¬ hostMay 2048 (.writeReg .ilen 2049)) ∧
    (hostMay 2048 (.writeReg .idn 14336) ∧ ¬ hostMay 2048 (.writeReg .idn 14337)) ∧
    (∀ r ∈ [Reg.res, .cnt, .status, .err, .vok, .fst, .olen], ¬ hostMay 2048 (.writeReg r 0)) := by
  simp [hostMay]

theorem witness_HostContractDecidesRefusal :
    (let s := facing [.writeReg .ilen 2048];
      s.pending = .writeReg .ilen 2048 :: [] ∧ hostMay s.config.ibufCap (.writeReg .ilen 2048)) ∧
    (let s := facing [.read (.obuf 4096)];
      s.pending = .read (.obuf 4096) :: [] ∧ ¬ hostMay s.config.ibufCap (.read (.obuf 4096))) ∧
    ((facing [.writeReg .olen 0]).pending = .writeReg .olen 0 :: [] ∧
      Reg.olen ∈ [Reg.res, .cnt, .status, .err, .vok, .fst, .olen]) := by
  exact ⟨⟨rfl, .inr (.inr (.inl ⟨rfl, (by decide : 2048 ≤ 2048)⟩))⟩, ⟨rfl, (by decide : ¬ 4096 < 2 * 2048)⟩, rfl, by decide⟩

theorem witness_ResetActionClearsState : ∃ s : State, s.pending = .reset :: [] ∧ s.fst = .decoded ∧ s.olen = 2 :=
  ⟨{ busy (.reg .res) with pending := [.reset] }, rfl, rfl, rfl⟩

theorem witness_CommandsAfterReset :
    Config.wf { Config.default with ibufCap := 32 } = true ∧ Config.wf { Config.default with ibufCap := 9362 } = true := by
  decide

theorem witness_IdleEngineStays : State.reset.pending = [] := rfl

theorem witness_ByteOrderFormulas : 0xFFFF < 256 ^ 2 ∧ 0 < 256 ^ 0 := by decide

theorem witness_ReadIntValue :
    [0x7F#8].length ∈ [1, 2, 4, 8] ∧ natOfBytes .big [0x7F#8] < 2 ^ (8 * [0x7F#8].length - 1) ∧
    2 ^ (8 * [0x80#8].length - 1) ≤ natOfBytes .little [0x80#8] := by decide

theorem witness_WriteIntFitsExactly :
    ((0 : Int) ≤ 255 ∧ (255 : Int) < 2 ^ (8 * widthBytes .w1)) ∧ ¬ ((0 : Int) ≤ 256 ∧ (256 : Int) < 2 ^ (8 * widthBytes .w1)) ∧
    (-(2 ^ (8 * widthBytes .w1 - 1)) ≤ (-128 : Int) ∧ (-128 : Int) < 2 ^ (8 * widthBytes .w1 - 1)) ∧
    ¬ (-(2 ^ (8 * widthBytes .w1 - 1)) ≤ (-129 : Int) ∧ (-129 : Int) < 2 ^ (8 * widthBytes .w1 - 1)) := by decide

theorem witness_IntegerRoundTrip :
    writeInt (-128) (widthBytes .w1) .little .signed = .ok [0x80#8] ∧
    [0x80#8, 0x00#8].length = widthBytes .w2 := ⟨rfl, rfl⟩

theorem witness_RdintReadsInteger :
    (spanOf [0xAA#8, 0xBB#8, 0xCC#8] 1 0).off.toNat + widthBytes .w2 ≤ (spanOf [0xAA#8, 0xBB#8, 0xCC#8] 1 0).ilen ∧
    (spanOf [0xAA#8, 0xBB#8, 0xCC#8] 2 0).ilen < (spanOf [0xAA#8, 0xBB#8, 0xCC#8] 2 0).off.toNat + widthBytes .w2 := by
  decide

theorem witness_WrintWritesInteger :
    (({ State.reset with val := 0xFF#64 } : State).val.toNat : Int) < 2 ^ (8 * widthBytes .w1) ∧
    ¬ (({ State.reset with val := 0x100#64 } : State).val.toNat : Int) < 2 ^ (8 * widthBytes .w1) ∧
    (-(2 ^ (8 * widthBytes .w1 - 1)) ≤ ({ State.reset with val := 0xFFFFFFFFFFFFFF80#64 } : State).val.toInt ∧
      ({ State.reset with val := 0xFFFFFFFFFFFFFF80#64 } : State).val.toInt < 2 ^ (8 * widthBytes .w1 - 1)) ∧
    ¬ (-(2 ^ (8 * widthBytes .w1 - 1)) ≤ ({ State.reset with val := 0x80#64 } : State).val.toInt ∧
      ({ State.reset with val := 0x80#64 } : State).val.toInt < 2 ^ (8 * widthBytes .w1 - 1)) := by decide

theorem witness_Rdf32leCopiesPattern :
    (spanOf [0xAA#8, 0#8, 0#8, 0x80#8, 0x3F#8] 1 0).off.toNat + 4 ≤ (spanOf [0xAA#8, 0#8, 0#8, 0x80#8, 0x3F#8] 1 0).ilen ∧
    (spanOf [0#8, 0#8, 0x80#8] 0 0).ilen < (spanOf [0#8, 0#8, 0x80#8] 0 0).off.toNat + 4 := by decide

theorem witness_Wrf32leWritesPattern :
    ({ State.reset with val := 0xFFFFFFFF#64 } : State).val.toNat < 2 ^ 32 ∧
    2 ^ 32 ≤ ({ State.reset with val := 0x100000000#64 } : State).val.toNat := by decide

theorem witness_FloatPatternRoundTrip :
    [0x01#8, 0x00#8, 0x80#8, 0x7F#8].length = 4 ∧ 0xFFFFFFFF < 2 ^ 32 := by decide

theorem witness_FloatDatumOfPattern :
    (0x80000001#32).toNat = 2 ^ 31 * 1 + 2 ^ 23 * 0 + 1 ∧ (0x7F7FFFFF#32).toNat = 2 ^ 31 * 0 + 2 ^ 23 * 254 + 0x7FFFFF ∧
    (0xFF800000#32).toNat = 2 ^ 31 * 1 + 2 ^ 23 * 255 + 0 ∧ (0x7FC00000#32).toNat = 2 ^ 31 * 0 + 2 ^ 23 * 255 + 0x400000 := by
  decide

theorem witness_Bcd2strDecodesDigits :
    (let s := spanOf [0xAA#8, 0x12#8, 0x39#8] 1 2;
      s.off.toNat + s.len.toNat ≤ s.ilen ∧ ∀ p < 2 * s.len.toNat, nibbleHighFirst s p ≤ 9) ∧
    (let s := spanOf [0x12#8, 0x3A#8] 0 2;
      s.off.toNat + s.len.toNat ≤ s.ilen ∧ ∃ p < 2 * s.len.toNat, 9 < nibbleHighFirst s p) ∧
    (let s := spanOf [0x12#8, 0x34#8] 3 0;
      s.ilen < s.off.toNat + s.len.toNat) := by decide

theorem witness_Str2bcdEncodesDigits :
    (let s := { spanOf (chars [1, 2, 3]) 0 3 with val := 2#64 };
      s.off.toNat + s.len.toNat ≤ s.ilen ∧ s.val.toNat ≤ 2 * s.config.ibufCap ∧ spanIsDigits s ∧
        s.len.toNat ≤ 2 * s.val.toNat) ∧
    (let s := { spanOf (chars [1]) 0 1 with val := 4097#64 };
      s.off.toNat + s.len.toNat ≤ s.ilen ∧ 2 * s.config.ibufCap < s.val.toNat) ∧
    (let s := { spanOf [0x2F#8] 0 1 with val := 1#64 };
      s.off.toNat + s.len.toNat ≤ s.ilen ∧ ¬ spanIsDigits s) ∧
    (let s := { spanOf (chars [1, 2, 3]) 0 3 with val := 1#64 };
      s.off.toNat + s.len.toNat ≤ s.ilen ∧ 2 * s.val.toNat < s.len.toNat) ∧
    (let s := spanOf (chars [1, 2]) 2 1;
      s.ilen < s.off.toNat + s.len.toNat) := by unfold spanIsDigits; decide

/-- 16 digits from 1 on, and 15 digits. -/
def imei16 : List Byte := chars [1, 2, 3, 4, 5, 6, 7, 8, 9, 1, 0, 1, 1, 1, 1, 2]

theorem witness_Imei2bcdEncodesImei :
    (let s := spanOf imei16 0 16;
      s.off.toNat + s.len.toNat ≤ s.ilen ∧
        ((s.len.toNat = 15 ∨ s.len.toNat = 16) ∧ spanIsDigits s ∧ ¬ (ImeiLayout.plain = .plain ∧ s.len.toNat = 16 ∧
          spanByte s 0 = 0x30))) ∧
    (let s := spanOf imei16 1 15;
      s.off.toNat + s.len.toNat ≤ s.ilen ∧ (s.len.toNat = 15 ∨ s.len.toNat = 16) ∧ spanIsDigits s) ∧
    (let s := spanOf imei16 2 14;
      s.off.toNat + s.len.toNat ≤ s.ilen ∧ ¬ (s.len.toNat = 15 ∨ s.len.toNat = 16)) ∧
    (let s := spanOf (chars [0] ++ imei16.drop 1) 0 16;
      s.off.toNat + s.len.toNat ≤ s.ilen ∧ s.len.toNat = 16 ∧ spanByte s 0 = 0x30) ∧
    (let s := spanOf imei16 1 16;
      s.ilen < s.off.toNat + s.len.toNat) := by unfold spanIsDigits; decide

/-- The eight bytes of the IMEI of E5 in each layout. -/
def plainImei : List Byte := [0x08#8, 0x67#8, 0x44#8, 0x00#8, 0x66#8, 0x76#8, 0x98#8, 0x78#8]

def swappedImei : List Byte := [0x68#8, 0x47#8, 0x04#8, 0x60#8, 0x76#8, 0x96#8, 0x78#8, 0xF8#8]

theorem witness_Bcd2imeiDecodesImei :
    (let s := spanOf plainImei 0 0;
      s.off.toNat + 8 ≤ s.ilen ∧ (∀ p < 15, nibbleHighFirst s p ≤ 9) ∧ nibbleHighFirst s 15 ≤ 9 ∧
        nibbleHighFirst s 0 = 0 ∧ (∀ p < 15, nibbleLowFirst s p ≤ 9) ∧ nibbleLowFirst s 15 ≤ 9 ∧
        nibbleLowFirst s 15 ≠ 0xF) ∧
    (let s := spanOf swappedImei 0 0;
      s.off.toNat + 8 ≤ s.ilen ∧ (∀ p < 15, nibbleLowFirst s p ≤ 9) ∧ nibbleLowFirst s 15 = 0xF ∧
        ¬ (∀ p < 15, nibbleHighFirst s p ≤ 9)) ∧
    (let s := spanOf plainImei 1 0;
      s.ilen < s.off.toNat + 8) := by decide

theorem witness_ImeiRoundTrip :
    imeiToBcd .plain imei16 = .ok [0x12#8, 0x34#8, 0x56#8, 0x78#8, 0x91#8, 0x01#8, 0x11#8, 0x12#8] ∧
    imeiToBcd .swapped (imei16.drop 1) = .ok [0x32#8, 0x54#8, 0x76#8, 0x98#8, 0x01#8, 0x11#8, 0x11#8, 0xF2#8] := ⟨rfl, rfl⟩

theorem witness_BcdDigitsRoundTrip :
    stringToBcdDigits (chars [1, 2, 3]) 2 = .ok [0x01#8, 0x23#8] ∧
    bcdDigitsToString [0x01#8, 0x23#8] = .ok (chars [0, 1, 2, 3]) := ⟨rfl, rfl⟩

theorem witness_XorSumIsXorOfEveryByte : [0x01#8, 0x02#8].Perm [0x02#8, 0x01#8] := by decide

/-- 95_test_vectors 2.8, the step trace for "12": index 0xCE, which is row 12, column 14, then index 0x6A. -/
theorem witness_TableCrcEqualsBitSerial :
    0xCE = (crc8 crc8DefaultTable [] ^^^ 0x31#8).toNat ∧ 0x6A = (crc8 crc8DefaultTable [0x31#8] ^^^ 0x32#8).toNat := by
  decide

theorem witness_OwnChecksumResidues : crc8Lookup crc8DefaultTable 0#8 = 0#8 := by decide

theorem witness_OneByteChangeIsDetected : (0x00#8 : Byte) ≠ 0x80#8 := by decide

theorem witness_ComputeCommandsGiveChecksum :
    (let s := spanOf [0x07#8] 1 0;
      s.off.toNat + s.len.toNat ≤ s.ilen) ∧
    (let s := spanOf [0x07#8] 1 1;
      s.ilen < s.off.toNat + s.len.toNat) := by decide

theorem witness_VerifyCommandsCompareClaim :
    (let s := { spanOf [0x07#8] 0 1 with claim := 0x07#64 };
      s.off.toNat + s.len.toNat ≤ s.ilen ∧ (xorSum (s.memRead s.off.toNat s.len.toNat)).toNat = s.claim.toNat) ∧
    (let s := { spanOf [0x07#8] 0 1 with claim := 0x107#64 };
      s.off.toNat + s.len.toNat ≤ s.ilen ∧ (xorSum (s.memRead s.off.toNat s.len.toNat)).toNat ≠ s.claim.toNat) ∧
    (let s := spanOf [0x07#8] 2 0;
      s.ilen < s.off.toNat + s.len.toNat) := by decide

theorem witness_ComputedChecksumVerifies :
    (Instr.c8c, Instr.c8v) ∈ [(Instr.xorc, Instr.xorv), (.c16c, .c16v), (.c8c, .c8v)] ∧
    (let s := spanOf [0x07#8] 0 1;
      s.off.toNat + s.len.toNat ≤ s.ilen) ∧
    (let s := { spanOf [0xAA#8, 0x07#8] 1 1 with
        pending := [.issue 0x00000014#32, .read (.reg .res), .writeReg .claim 0x3B, .issue 0x00000015#32] };
      s.off.toNat + s.len.toNat ≤ s.ilen ∧ (∀ k < s.len.toNat, (s.ibufAt (s.off.toNat + k)).isSome = true) ∧
        0x3B = (after s (step s)).res.toNat) := by decide +kernel

theorem witness_HdrpListsPresentFields :
    (let s := spanOf [0x81#8, 0x02#8] 0 0;
      s.ilen ≤ 9362 ∧ s.off.toNat + 1 < s.ilen ∧ spanByte s 1 < 128 ∧ ∀ j < 1, 128 ≤ spanByte s j) ∧
    (let s := spanOf [0x00#8] 0 0;
      s.ilen ≤ 9362 ∧ s.off.toNat + 0 < s.ilen ∧ spanByte s 0 < 128 ∧ ∀ j < 0, 128 ≤ spanByte s j) ∧
    (let s := spanOf [0x81#8] 0 0;
      s.ilen ≤ 9362 ∧ ∀ k, s.off.toNat + k < s.ilen → 128 ≤ spanByte s k) ∧
    (let s := spanOf [0x07#8] 1 0;
      s.ilen ≤ 9362 ∧ ∀ k, s.off.toNat + k < s.ilen → 128 ≤ spanByte s k) := by
  refine ⟨by decide, by decide, ⟨by decide, fun k hk => ?_⟩, by decide, fun k hk => ?_⟩
  · have hk' : 0 + k < 1 := hk
    obtain rfl : k = 0 := by omega
    decide
  · have hk' : 1 + k < 1 := hk
    omega

theorem witness_HdrbBuildsMinimalHeader :
    (let s := withIds [1, 28672];
      s.config.wf = true ∧ ∀ j < s.idn, 1 ≤ (s.idlEntry j).toNat ∧ (s.idlEntry j).toNat ≤ 7 * (2 * s.config.ibufCap)) ∧
    (let s := withIds [];
      s.config.wf = true ∧ ∀ j < s.idn, 1 ≤ (s.idlEntry j).toNat ∧ (s.idlEntry j).toNat ≤ 7 * (2 * s.config.ibufCap)) ∧
    (let s := withIds [1, 28673];
      s.config.wf = true ∧ ∃ j < s.idn, (s.idlEntry j).toNat = 0 ∨ 7 * (2 * s.config.ibufCap) < (s.idlEntry j).toNat) ∧
    (let s := withIds [1, 0];
      s.config.wf = true ∧
        ∃ j < s.idn, (s.idlEntry j).toNat = 0 ∨ 7 * (2 * s.config.ibufCap) < (s.idlEntry j).toNat) := by decide

theorem witness_HeaderRoundTrip :
    [1, 7, 8, 200, 65535].Pairwise (· < ·) ∧ ∀ id ∈ [1, 7, 8, 200, 65535], 1 ≤ id := by decide

/-- One state for each clause of FHDR, in the order of the statement. -/
theorem witness_FhdrParsesFrameHeader :
    (let s := { frameA 0 0 with fcfg := 0x00000200#32 };
      ¬ fcfgIsLegal s) ∧
    (let s := { frameA 0 0 with ilen := 1 };
      fcfgIsLegal s ∧ s.ilen < s.off.toNat + pren s) ∧
    (let s := { frameA 0 0 with ilen := 2, fpre := 0x7978#32 };
      fcfgIsLegal s ∧ s.off.toNat + pren s ≤ s.ilen ∧ ¬ preambleMatches s) ∧
    (let s := { frameA 0 0 with ilen := 2 };
      fcfgIsLegal s ∧ s.off.toNat + pren s ≤ s.ilen ∧ preambleMatches s ∧
        s.ilen < s.off.toNat + pren s + lengthBytes s) ∧
    (let s := { frameA 0 0 with ilen := 21 };
      fcfgIsLegal s ∧ preambleMatches s ∧ s.off.toNat + pren s + lengthBytes s ≤ s.ilen ∧
        s.ilen - (s.off.toNat + pren s + lengthBytes s) < declaredLength s + ladj s) ∧
    (let s := { frameA 0 0 with ilen := 23 };
      fcfgIsLegal s ∧ preambleMatches s ∧ s.off.toNat + pren s + lengthBytes s ≤ s.ilen ∧
        declaredLength s + ladj s < s.ilen - (s.off.toNat + pren s + lengthBytes s)) ∧
    (let s := frameA 0 0;
      fcfgIsLegal s ∧ preambleMatches s ∧ s.off.toNat + pren s + lengthBytes s ≤ s.ilen ∧
        s.ilen - (s.off.toNat + pren s + lengthBytes s) = declaredLength s + ladj s) := by
  unfold fcfgIsLegal preambleMatches; decide

/-- One state for each clause of FCHK, in the order of the statement. -/
theorem witness_FchkGivesVerdict :
    (let s := { gateA 2 16 0#64 with fcfg := 0x000000C0#32 };
      ¬ fcfgIsLegal s) ∧
    (let s := frameA 2 16;
      fcfgIsLegal s ∧ s.fst ≠ .readingBody) ∧
    (let s := gateA 10 20 0#64;
      fcfgIsLegal s ∧ s.fst = .readingBody ∧ s.ilen < s.off.toNat + s.len.toNat) ∧
    (let s := gateA 2 16 0xDAE4#64;
      fcfgIsLegal s ∧ s.fst = .readingBody ∧ s.off.toNat + s.len.toNat ≤ s.ilen ∧
        frameChecksum s = s.claim.toNat ∧ mandatory s) ∧
    (let s := { gateA 22 0 0x1#64 with fcfg := 0x00020042#32 };
      fcfgIsLegal s ∧ s.fst = .readingBody ∧ s.off.toNat + s.len.toNat ≤ s.ilen ∧
        frameChecksum s ≠ s.claim.toNat ∧ ¬ mandatory s) := by
  unfold fcfgIsLegal mandatory; decide +kernel

theorem witness_FrameStateTransitions :
    (let s := { busy (.reg .res) with pending := [.reset] };
      ∃ t, step s = .next t ∧ t.fst ≠ s.fst) ∧
    (let s := { frameA 0 0 with pending := [.issue 0x00000030#32] };
      ∃ t, step s = .next t ∧ t.fst ≠ s.fst) ∧
    (let s := { gateA 2 16 0xDAE5#64 with pending := [.issue 0x00000031#32] };
      ∃ t, step s = .next t ∧ t.fst ≠ s.fst) := by
  refine ⟨⟨_, rfl, ?_⟩, ⟨_, rfl, ?_⟩, _, rfl, ?_⟩ <;> decide +kernel

theorem witness_FrameLengthIsExact :
    ∃ t, exec .fhdr (frameA 0 0) = .next t ∧ t.err = .ok ∧ 21 < (frameA 0 0).ilen ∧ (frameA 0 0).ilen < 23 :=
  ⟨_, rfl, by decide⟩

theorem witness_SecondFchkIsBadState :
    (let s := gateA 22 0 0#64;
      fcfgIsLegal s ∧ s.fst = .readingBody ∧ s.off.toNat + s.len.toNat ≤ s.ilen) ∧
    ∃ t, exec .fchk (gateA 22 0 0#64) = .next t := by
  refine ⟨?_, _, rfl⟩
  unfold fcfgIsLegal; decide

theorem witness_FailureChangesOnlyStatus :
    (∃ t, exec .fchk (gateA 22 0 1#64) = .next t ∧ t.err ≠ .ok) ∧
    (∃ t, exec .fhdr { frameA 0 0 with ilen := 0 } = .next t ∧ t.err ≠ .ok) ∧
    (∃ t, exec .hdrp State.reset = .next t ∧ t.err ≠ .ok) := by
  refine ⟨⟨_, rfl, ?_⟩, ⟨_, rfl, ?_⟩, _, rfl, ?_⟩ <;> decide +kernel

theorem witness_CommandFrame :
    (∃ t, exec .hdrb (withIds [1, 9]) = .next t) ∧ Instr.hdrb.mnemonic ∉ resWriters ∧ Instr.hdrb.mnemonic ∉ cntWriters ∧
    Instr.hdrb.mnemonic ≠ "HDRP" ∧ Instr.hdrb.mnemonic ∉ ["FHDR", "FCHK"] ∧
    (∃ t, exec .xorc (spanOf [0x07#8] 0 1) = .next t) ∧ Instr.xorc.mnemonic ∉ obufWriters := by
  refine ⟨⟨_, rfl⟩, ?_, ?_, ?_, ?_, ⟨_, rfl⟩, ?_⟩ <;> decide

theorem witness_OutputBufferFrame :
    Instr.hdrb.mnemonic ∈ obufWriters ∧
    (∃ t, exec .hdrb (withIds [1, 9]) = .next t ∧ t.err = .ok) ∧
    (∃ t, exec .hdrb (withIds [0]) = .next t ∧ t.err ≠ .ok) := by
  refine ⟨?_, ⟨_, rfl, ?_⟩, _, rfl, ?_⟩ <;> decide

theorem witness_NoReadAtOrAboveIlen :
    (let s := { load [0x01#8, 0x02#8] with ilen := 1 };
      ∀ a < s.ilen, Memory.lookup ([(0, 0x01#8), (1, 0xFF#8)] : List Host.Cell) a = s.ibufAt a) := by decide

theorem witness_UnlistedOperandsHaveNoEffect :
    Instr.hdrb.mnemonic ∈ ["WRINT", "WRF32LE", "HDRB"] ∧
    Instr.hdrp.mnemonic ∉ ["BCD2STR", "STR2BCD", "IMEI2BCD", "XORC", "XORV", "C16C", "C16V", "C8C", "C8V", "FCHK"] ∧
    Instr.hdrp.mnemonic ∉ ["WRINT", "WRF32LE", "STR2BCD"] ∧ Instr.hdrp.mnemonic ∉ verifiers ∧
    Instr.hdrp.mnemonic ∉ ["FHDR", "FCHK"] ∧ Instr.fchk.mnemonic ≠ "FHDR" := by decide

theorem witness_UnusedPreambleBytesIgnored :
    (let s := frameA 0 0;
      (0xABCD7878#32).toNat % 2 ^ (8 * pren s) = s.fpre.toNat % 2 ^ (8 * pren s)) := by decide

theorem witness_CommandsAreIdempotent :
    (Instr.c8v ≠ .fchk ∧ ∃ t, exec .c8v State.reset = .next t) ∧
    (let s := { withIds [1, 9] with
        ibuf := [(0, 0x81#8), (1, 0x02#8)], ilen := 2, pending := [.issue 0x00000021#32, .issue 0x00000021#32] };
      s.pending = .issue 0x00000021#32 :: .issue 0x00000021#32 :: [] ∧ (0x00000021#32 : CmdWord) ≠ 0x00000031#32 ∧
        inputsSpecified s) := by
  refine ⟨⟨by decide, _, rfl⟩, ?_⟩
  unfold inputsSpecified; decide

theorem witness_VokMeansClaimMatched :
    (∃ t, exec .xorv State.reset = .next t ∧ t.vok = true) ∧
    (illegalWord 0#32 ∧ ∃ t, issue 0#32 State.reset = .next t) := by
  refine ⟨⟨_, rfl, by decide⟩, ?_, _, rfl⟩
  unfold illegalWord; decide

theorem witness_ErrorCodesRaisedBy :
    (∃ t, exec .fhdr { frameA 0 0 with fpre := 0#32 } = .next t ∧ t.err = .invalidPreamble) ∧
    (∃ t, exec .fhdr { frameA 0 0 with ilen := 23 } = .next t ∧ t.err = .lengthMismatch) ∧
    (∃ t, exec .fchk (gateA 22 0 1#64) = .next t ∧ t.err = .checksumMismatch) ∧
    (∃ t, exec .c16c (frameA 22 1) = .next t ∧ t.err = .truncatedPayloadError) ∧
    (∃ t, exec .hdrp State.reset = .next t ∧ t.err = .malformedHeaderError) ∧
    (∃ t, exec .wrf32le { State.reset with val := 0x100000000#64 } = .next t ∧ t.err = .valueOutOfRange) ∧
    (∃ t, exec .bcd2str (spanOf [0x0A#8] 0 1) = .next t ∧ t.err = .bcdNibbleError) ∧
    (∃ t, exec .fchk State.reset = .next t ∧ t.err = .badState) ∧
    (∃ t, exec .fhdr { State.reset with fcfg := 0x00000005#32 } = .next t ∧ t.err = .illegalCommand) := by
  refine ⟨⟨_, rfl, ?_⟩, ⟨_, rfl, ?_⟩, ⟨_, rfl, ?_⟩, ⟨_, rfl, ?_⟩, ⟨_, rfl, ?_⟩, ⟨_, rfl, ?_⟩, ⟨_, rfl, ?_⟩,
    ⟨_, rfl, ?_⟩, _, rfl, ?_⟩ <;> decide +kernel

theorem witness_EveryStepKeepsInvariant : (busy (.reg .res)).Inv ∧ ∃ t, step (busy (.reg .res)) = .next t :=
  ⟨busy_inv _, _, rfl⟩

theorem witness_InvariantAtReset : Config.wf { Config.default with ibufCap := 9362 } = true := by decide

theorem witness_ContractualRunNeverStops :
    let s := facing [.writeReg .ilen 2048, .issue 0x00000000#32, .reset, .read (.obuf 4095)];
    ∀ a ∈ s.pending, hostMay s.config.ibufCap a := by
  intro s a ha
  simp only [s, facing, List.mem_cons, List.not_mem_nil, or_false] at ha
  rcases ha with rfl | rfl | rfl | rfl
  · exact .inr (.inr (.inl ⟨rfl, (by decide : 2048 ≤ 2048)⟩))
  · trivial
  · trivial
  · exact (by decide : 4095 < 2 * 2048)

end Sys2Proof.Tests
end

/-! SUPPORT. One rule per update of State that says what it needs to keep the invariant; after them one lemma per
command and one for the host actions, and O59 (EveryStepKeepsInvariant). -/

namespace Sys2Proof.Machine

/-! ### What the operations and functions give, whatever the state -/

/-- A number of bytes in IBUF stays one as a register value, as RDINT, HDRP and FHDR write it to CNT. -/
theorem toNat_ofNat_le_of_le {n m : Nat} (hn : n ≤ m) : (BitVec.ofNat 64 n).toNat ≤ m := by
  rw [BitVec.toNat_ofNat]
  exact (Nat.mod_le ..).trans hn

/-- The bytes of an accepted frame header all stand in the payload (R187). -/
theorem parseFrameHeader_headerLength_le {f p : CmdWord} {buf : List Byte} {o declared n : Nat}
    (h : parseFrameHeader f p buf o = .ok (declared, n)) : o + n ≤ buf.length := by
  simp only [parseFrameHeader] at h
  split at h
  · cases h
  split at h
  · cases h
  split at h
  · cases h
  split at h
  · cases h
  split at h <;> cases h
  omega

theorem parseFrameHeader_error_produced {f p : CmdWord} {buf : List Byte} {o : Nat} {e : ErrCode}
    (h : parseFrameHeader f p buf o = .error e) : e.produced = true := by
  rcases parseFrameHeader_error h with rfl | rfl | rfl <;> rfl

/-- The gate leaves no transient frame state (R28, R189). -/
theorem verdict_observable (f : CmdWord) (ok : Bool) : (verdict f ok).observable = true := by
  unfold verdict
  split <;> rfl

/-- With no host action to come a step changes nothing (R60, R231). -/
theorem step_nil {s : State} (h : s.pending = []) : step s = .next s := by
  simp [step, nextAction, h]

/-- An action that is not refused is among those of R60. -/
theorem wellFormed_of_performAction_eq_next {s t : State} {a : HostAction} (h : performAction a s = .next t) :
    a.wellFormed s.config = true := by
  by_contra hw
  rw [performAction_refused (Bool.eq_false_of_not_eq_true hw)] at h
  cases h

/-! ### What the invariant bounds -/

section
variable {s t : State} (hs : s.Inv)
include hs

/-- IBUF_CAP is at least 32 (R5), so OBUF takes what the commands of fixed output length write. -/
theorem inv_le_obufCap {n : Nat} (hn : n ≤ 64) : n ≤ s.config.obufCap := by
  have hc := hs.config_wf
  simp only [Config.wf, Bool.and_eq_true, decide_eq_true_eq] at hc
  unfold Config.obufCap
  omega

/-- An operand span inside IBUF[0 .. ILEN) is no longer than IBUF (R53, R54). -/
theorem inv_span_le {n : Nat} (hb : s.off.toNat + n ≤ s.ilen) : n ≤ s.config.ibufCap := by
  have := hs.ilen_le
  omega

/-! ### The updates of a command -/

/-- The result registers and the fields of STATUS take new values together (R20, R25). -/
theorem inv_withResults {r c : Word} {e : ErrCode} {v : Bool} {f : FrameState} (hc : c.toNat ≤ s.config.ibufCap)
    (he : e.produced = true) (hv : v = true → e = .ok) (hf : f.observable = true) :
    ({ s with res := r, cnt := c, err := e, vok := v, fst := f } : State).Inv :=
  { hs with cnt_le := hc, err_produced := he, vok_err := hv, fst_observable := hf }

theorem inv_raise {e : ErrCode} (he : e.produced = true) : (raise e s).Inv :=
  inv_withResults hs hs.cnt_le he nofun hs.fst_observable

theorem inv_succeed : (succeed s).Inv := inv_withResults hs hs.cnt_le rfl nofun hs.fst_observable

theorem inv_succeed_withResults {r c : Word} (hc : c.toNat ≤ s.config.ibufCap) :
    (succeed { s with res := r, cnt := c }).Inv :=
  inv_withResults hs hc rfl nofun hs.fst_observable

theorem inv_memWrite {v : List Byte} (hv : v.length ≤ s.config.obufCap) : (s.memWrite v).Inv :=
  { hs with
    olen_le := hv
    obuf_indices := by simp [Memory.listFrom_indices] }

theorem inv_idlWrite {ids : List Nat} (hn : ids.length ≤ s.config.idlCap) : (s.idlWrite ids).Inv :=
  { hs with
    idn_le := hn
    idl_wf := idlWrite_idl_wf s ids
    idl_lt := fun c hc => by
      have := (Memory.mem_listFrom hc).2
      rw [List.length_map] at this
      show c.1 < s.config.idlCap
      omega }

/-! ### The commands -/

theorem execRdint_keeps_inv {w : Width} {e : Endian} {sg : Sign} (h : execRdint w e sg s = .next t) : t.Inv := by
  rcases execRdint_cases h with ⟨hb, rfl⟩ | ⟨-, rfl⟩
  · exact inv_succeed_withResults hs (toNat_ofNat_le_of_le (inv_span_le hs hb))
  · exact inv_raise hs rfl

theorem execWrint_keeps_inv {w : Width} {e : Endian} {sg : Sign} (h : execWrint w e sg s = .next t) : t.Inv := by
  rcases execWrint_cases h with ⟨bytes, hw, rfl⟩ | ⟨-, rfl⟩
  · have hlen : bytes.length ≤ 64 := by
      rw [writeInt_length hw]
      cases w <;> decide
    exact inv_succeed (inv_memWrite hs (inv_le_obufCap hs hlen))
  · exact inv_raise hs rfl

theorem execRdf32le_keeps_inv (h : execRdf32le s = .next t) : t.Inv := by
  rcases execRdf32le_cases h with ⟨hb, rfl⟩ | ⟨-, rfl⟩
  · exact inv_succeed_withResults hs (inv_span_le hs hb)
  · exact inv_raise hs rfl

theorem execWrf32le_keeps_inv (h : execWrf32le s = .next t) : t.Inv := by
  rcases execWrf32le_cases h with ⟨-, rfl⟩ | ⟨-, rfl⟩
  · exact inv_succeed (inv_memWrite hs (inv_le_obufCap hs (by simp)))
  · exact inv_raise hs rfl

/-- Two characters for each byte of the span: OBUF_CAP is twice IBUF_CAP (R5, R121). -/
theorem execBcd2str_keeps_inv (h : execBcd2str s = .next t) : t.Inv := by
  rcases execBcd2str_cases h with ⟨hb, ⟨str, hstr, rfl⟩ | ⟨-, rfl⟩⟩ | ⟨-, rfl⟩
  · have hspan := inv_span_le hs hb
    have hlen : str.length ≤ s.config.obufCap := by
      rw [bcdDigitsToString_length hstr, memRead_length]
      exact Nat.mul_le_mul_left 2 hspan
    exact inv_succeed_withResults (inv_memWrite hs hlen) hspan
  · exact inv_raise hs rfl
  · exact inv_raise hs rfl

theorem execStr2bcd_keeps_inv (h : execStr2bcd s = .next t) : t.Inv := by
  rcases execStr2bcd_cases h with ⟨hb, ⟨b, hcap, hpack, rfl⟩ | ⟨-, rfl⟩⟩ | ⟨-, rfl⟩
  · have hlen : b.length ≤ s.config.obufCap := (stringToBcdDigits_length hpack).le.trans hcap
    exact inv_succeed_withResults (inv_memWrite hs hlen) (inv_span_le hs hb)
  · exact inv_raise hs rfl
  · exact inv_raise hs rfl

theorem execImei2bcd_keeps_inv {m : ImeiLayout} (h : execImei2bcd m s = .next t) : t.Inv := by
  rcases execImei2bcd_cases h with ⟨hb, ⟨b, hpack, rfl⟩ | ⟨-, rfl⟩⟩ | ⟨-, rfl⟩
  · have hlen : b.length ≤ 64 := by rw [imeiToBcd_length hpack]; decide
    exact inv_succeed_withResults (inv_memWrite hs (inv_le_obufCap hs hlen)) (inv_span_le hs hb)
  · exact inv_raise hs rfl
  · exact inv_raise hs rfl

theorem execBcd2imei_keeps_inv {m : ImeiLayout} (h : execBcd2imei m s = .next t) : t.Inv := by
  rcases execBcd2imei_cases h with ⟨hb, ⟨str, hstr, rfl⟩ | ⟨-, rfl⟩⟩ | ⟨-, rfl⟩
  · have hlen : str.length ≤ 64 := by
      have := bcdToImei_length (memRead_length ..) hstr
      omega
    exact inv_succeed_withResults (inv_memWrite hs (inv_le_obufCap hs hlen)) (inv_span_le hs hb)
  · exact inv_raise hs rfl
  · exact inv_raise hs rfl

/-- XORC, C16C and C8C. -/
theorem computeChecksum_keeps_inv {checksum : List Byte → Word} (h : computeChecksum checksum s = .next t) :
    t.Inv := by
  rcases computeChecksum_cases h with ⟨hb, rfl⟩ | ⟨-, rfl⟩
  · exact inv_succeed_withResults hs (inv_span_le hs hb)
  · exact inv_raise hs rfl

/-- XORV, C16V and C8V. -/
theorem verifyChecksum_keeps_inv {checksum : List Byte → Word} (h : verifyChecksum checksum s = .next t) :
    t.Inv := by
  rcases verifyChecksum_cases h with ⟨hb, rfl⟩ | ⟨-, rfl⟩
  · exact inv_withResults hs (inv_span_le hs hb) rfl (fun _ => rfl) hs.fst_observable
  · exact inv_raise hs rfl

/-- At most ILEN header bytes with seven IDs each, and IDL_CAP is seven times IBUF_CAP (R5, R174). -/
theorem execHdrp_keeps_inv (h : execHdrp s = .next t) : t.Inv := by
  rcases execHdrp_cases h with ⟨ids, k, hp, rfl⟩ | ⟨-, rfl⟩
  · obtain ⟨-, hk, hids⟩ := parseHeaderFrom_bounds hp
    have hcap : k ≤ s.config.ibufCap := by
      have := hs.ilen_le
      rw [List.length_drop, payload_length] at hk
      omega
    have hidn : ids.length ≤ s.config.idlCap := hids.trans (Nat.mul_le_mul_left 7 ((Nat.sub_le ..).trans hcap))
    exact inv_succeed_withResults (inv_idlWrite hs hidn) (toNat_ofNat_le_of_le hcap)
  · exact inv_raise hs rfl

theorem execHdrb_keeps_inv (h : execHdrb s = .next t) : t.Inv := by
  rcases execHdrb_cases h with ⟨-, hcap, rfl⟩ | ⟨-, rfl⟩
  · exact inv_succeed (inv_memWrite hs ((headerBytes_length _).le.trans hcap))
  · exact inv_raise hs rfl

theorem execFhdr_keeps_inv (h : execFhdr s = .next t) : t.Inv := by
  rcases execFhdr_cases h with ⟨-, rfl⟩ | ⟨-, ⟨declared, n, hp, rfl⟩ | ⟨e, hp, rfl⟩⟩
  · exact inv_raise hs rfl
  · have hcap : n ≤ s.config.ibufCap := by
      have hn := parseFrameHeader_headerLength_le hp
      rw [payload_length] at hn
      exact inv_span_le hs hn
    exact inv_withResults hs (toNat_ofNat_le_of_le hcap) rfl nofun rfl
  · exact inv_withResults hs hs.cnt_le (parseFrameHeader_error_produced hp) nofun rfl

theorem execFchk_keeps_inv (h : execFchk s = .next t) : t.Inv := by
  rcases execFchk_cases h with ⟨-, rfl⟩ | ⟨-, -, rfl⟩ | ⟨-, -, -, rfl⟩ | ⟨-, -, hb, c, ok, -, -, rfl⟩
  · exact inv_raise hs rfl
  · exact inv_raise hs rfl
  · exact inv_raise hs rfl
  · have he : (if ok then ErrCode.ok else .checksumMismatch).produced = true := by cases ok <;> rfl
    exact inv_withResults hs (inv_span_le hs hb) he (if_pos ·) (verdict_observable s.fcfg ok)

theorem exec_keeps_inv {i : Instr} (h : exec i s = .next t) : t.Inv := by
  cases i with
  | rdint => exact execRdint_keeps_inv hs h
  | wrint => exact execWrint_keeps_inv hs h
  | rdf32le => exact execRdf32le_keeps_inv hs h
  | wrf32le => exact execWrf32le_keeps_inv hs h
  | bcd2str => exact execBcd2str_keeps_inv hs h
  | str2bcd => exact execStr2bcd_keeps_inv hs h
  | imei2bcd => exact execImei2bcd_keeps_inv hs h
  | bcd2imei => exact execBcd2imei_keeps_inv hs h
  | xorc | c16c | c8c => exact computeChecksum_keeps_inv hs h
  | xorv | c16v | c8v => exact verifyChecksum_keeps_inv hs h
  | hdrp => exact execHdrp_keeps_inv hs h
  | hdrb => exact execHdrb_keeps_inv hs h
  | fhdr => exact execFhdr_keeps_inv hs h
  | fchk => exact execFchk_keeps_inv hs h

/-! ### The host actions -/

/-- ILEN and IDN are the registers of the invariant that the host writes, each up to its capacity (R60). -/
theorem hostWriteReg_keeps_inv {r : Reg} {v : Nat} (hw : r.writable s.config v = true) : (hostWriteReg r v s).Inv := by
  cases r with
  | ilen => exact { hs with ilen_le := of_decide_eq_true hw }
  | idn => exact { hs with idn_le := of_decide_eq_true hw }
  | off | len | val | claim | fcfg | fpre => exact { hs with }
  | res | cnt | status | err | vok | fst | olen => exact hs

theorem hostWriteIbuf_keeps_inv {i : Nat} {b : Byte} (hi : i < s.config.ibufCap) : (hostWriteIbuf i b s).Inv :=
  { hs with
    ibuf_wf := hostWriteIbuf_ibuf_wf i b hs.ibuf_wf
    ibuf_lt := fun c hc => (Memory.mem_insert hc).elim (· ▸ hi) (hs.ibuf_lt c) }

theorem hostWriteIdl_keeps_inv {i : Nat} {e : IdEntry} (hi : i < s.config.idlCap) : (hostWriteIdl i e s).Inv :=
  { hs with
    idl_wf := hostWriteIdl_idl_wf i e hs.idl_wf
    idl_lt := fun c hc => (Memory.mem_insert hc).elim (· ▸ hi) (hs.idl_lt c) }

theorem hostRead_keeps_inv (loc : Loc) : (hostRead loc s).Inv := { hs with }

/-- A Reset keeps the parameters, and every state of reset values meets the invariant under them (R41). -/
theorem hostReset_keeps_inv : (hostReset s).Inv where
  config_wf := hs.config_wf
  ilen_le := Nat.zero_le _
  olen_le := Nat.zero_le _
  idn_le := Nat.zero_le _
  ibuf_wf := rfl
  ibuf_lt := fun _ hc => nomatch hc
  obuf_indices := rfl
  idl_wf := rfl
  idl_lt := fun _ hc => nomatch hc
  cnt_le := Nat.zero_le _
  fst_observable := rfl
  err_produced := rfl
  vok_err := fun h => nomatch h

theorem issue_keeps_inv {w : CmdWord} (h : issue w s = .next t) : t.Inv := by
  cases hd : decode w with
  | ok i =>
    rw [issue_of_decode s hd] at h
    exact exec_keeps_inv hs h
  | error r =>
    rw [issue_of_reject s hd] at h
    cases h
    exact inv_raise hs rfl

theorem performAction_keeps_inv {a : HostAction} (h : performAction a s = .next t) : t.Inv := by
  have hw := wellFormed_of_performAction_eq_next h
  unfold performAction at h
  rw [if_pos hw] at h
  cases a with
  | writeReg r v => cases h; exact hostWriteReg_keeps_inv hs hw
  | writeIbuf i b => cases h; exact hostWriteIbuf_keeps_inv hs (of_decide_eq_true hw)
  | writeIdl i e => cases h; exact hostWriteIdl_keeps_inv hs (of_decide_eq_true hw)
  | read loc => cases h; exact hostRead_keeps_inv hs loc
  | issue w => exact issue_keeps_inv hs h
  | reset => cases h; exact hostReset_keeps_inv hs

/-- The queue and the free-value counter are the model's own, and the invariant says nothing of them. -/
theorem inv_withQueue (rest : List HostAction) (n : Nat) : ({ s with pending := rest, freeCtr := n } : State).Inv :=
  { hs with }

theorem step_keeps_inv (h : step s = .next t) : t.Inv := by
  cases hp : s.pending with
  | nil =>
    rw [step_nil hp] at h
    cases h
    exact hs
  | cons a rest =>
    rw [step_cons hp] at h
    exact performAction_keeps_inv (inv_withQueue hs rest _) h

end

/-- Settles O59: a command commits only updates that keep the invariant, and so does every host action; the step is the
next host action, or nothing when none is to come. -/
theorem everyStepKeepsInvariant : Obligations.EveryStepKeepsInvariant :=
  fun _ _ hs h => step_keeps_inv hs h

end Sys2Proof.Machine

/-! SUPPORT. What a command can leave, by the part of the state it writes: one inductive over all commands, and the
statements about frames and VOK read off it. -/

namespace Sys2Proof.Machine

open Sys2Proof.Claims

/-- The commands that leave a value in RES, a value read or a checksum computed, and compare it with nothing. -/
def resOnlyCommands : List String := ["RDINT", "RDF32LE", "XORC", "C16C", "C8C"]

/-- The commands that verify the checksum of a span and leave FST alone. -/
def spanVerifiers : List String := ["XORV", "C16V", "C8V"]

/-- The states a command can leave when it began in `s`, by what is written (10_state R22, 60_exceptions R202). -/
inductive Effect (s : State) : Instr → State → Prop
  /-- A failure: ERR and VOK, and nothing else (R202). -/
  | fails {i : Instr} {e : ErrCode} (he : e ≠ .ok) : Effect s i (raise e s)
  /-- A value read from the span, or a checksum computed. -/
  | reads {i : Instr} {r c : Word} (hi : i.mnemonic ∈ resOnlyCommands) :
      Effect s i (succeed { s with res := r, cnt := c })
  /-- A checksum computed and compared with CLAIM; a mismatch is no failure (R27). -/
  | verifies {i : Instr} {r c : Word} (hi : i.mnemonic ∈ spanVerifiers) :
      Effect s i { s with res := r, cnt := c, vok := claimMatches r s.claim, err := .ok }
  /-- Bytes written to OBUF; CNT is written by those of the byte-producing commands that read a span. -/
  | produces {i : Instr} {v : List Byte} {c : Word} (hi : i.mnemonic ∈ obufWriters)
      (hc : i.mnemonic ∉ cntWriters → c = s.cnt) : Effect s i (succeed { s.memWrite v with cnt := c })
  /-- HDRP: the ID list. -/
  | lists {ids : List Nat} {c : Word} : Effect s .hdrp (succeed { s.idlWrite ids with cnt := c })
  /-- FHDR on a frame it accepts. -/
  | accepts {r c : Word} : Effect s .fhdr (succeed { s with res := r, cnt := c, fst := .readingBody })
  /-- FHDR on a frame failure: FST is written as well (44_frame_header R188). -/
  | rejects {e : ErrCode} (he : e ≠ .ok) : Effect s .fhdr (raise e { s with fst := .rejected })
  /-- FCHK on a frame whose checksum it computed: a mismatch is a code beside the results (R190). -/
  | judges {r c : Word} {f : FrameState} :
      Effect s .fchk { s with
        res := r
        cnt := c
        vok := claimMatches r s.claim
        err := if claimMatches r s.claim then .ok else .checksumMismatch
        fst := f }

/-- WRINT, WRF32LE and HDRB write bytes and leave CNT as it is. -/
theorem Effect.of_memWrite {i : Instr} {s : State} {v : List Byte} (hi : i.mnemonic ∈ obufWriters) :
    Effect s i (succeed (s.memWrite v)) :=
  .produces (c := s.cnt) hi fun _ => rfl

/-- XORC, C16C and C8C. -/
theorem computeChecksum_effect {checksum : List Byte → Word} {i : Instr} {s t : State}
    (hi : i.mnemonic ∈ resOnlyCommands) (h : computeChecksum checksum s = .next t) :
    Effect s i t := by
  rcases computeChecksum_cases h with ⟨-, rfl⟩ | ⟨-, rfl⟩
  · exact .reads hi
  · exact .fails nofun

/-- XORV, C16V and C8V. -/
theorem verifyChecksum_effect {checksum : List Byte → Word} {i : Instr} {s t : State}
    (hi : i.mnemonic ∈ spanVerifiers) (h : verifyChecksum checksum s = .next t) : Effect s i t := by
  rcases verifyChecksum_cases h with ⟨-, rfl⟩ | ⟨-, rfl⟩
  · exact .verifies hi
  · exact .fails nofun

/-- Every command leaves one of the states `Effect` lists. -/
theorem exec_effect {i : Instr} {s t : State} (h : exec i s = .next t) : Effect s i t := by
  cases i with
  | rdint w e sg =>
    rcases execRdint_cases h with ⟨-, rfl⟩ | ⟨-, rfl⟩
    · exact .reads (by simp [Instr.mnemonic, resOnlyCommands])
    · exact .fails nofun
  | wrint w e sg =>
    rcases execWrint_cases h with ⟨_, -, rfl⟩ | ⟨-, rfl⟩
    · exact .of_memWrite (by simp [Instr.mnemonic, obufWriters])
    · exact .fails nofun
  | rdf32le =>
    rcases execRdf32le_cases h with ⟨-, rfl⟩ | ⟨-, rfl⟩
    · exact .reads (by decide)
    · exact .fails nofun
  | wrf32le =>
    rcases execWrf32le_cases h with ⟨-, rfl⟩ | ⟨-, rfl⟩
    · exact .of_memWrite (by decide)
    · exact .fails nofun
  | bcd2str =>
    rcases execBcd2str_cases h with ⟨-, ⟨_, -, rfl⟩ | ⟨-, rfl⟩⟩ | ⟨-, rfl⟩
    · exact .produces (by decide) (absurd (by decide))
    · exact .fails nofun
    · exact .fails nofun
  | str2bcd =>
    rcases execStr2bcd_cases h with ⟨-, ⟨_, -, -, rfl⟩ | ⟨-, rfl⟩⟩ | ⟨-, rfl⟩
    · exact .produces (by decide) (absurd (by decide))
    · exact .fails nofun
    · exact .fails nofun
  | imei2bcd m =>
    rcases execImei2bcd_cases h with ⟨-, ⟨_, -, rfl⟩ | ⟨-, rfl⟩⟩ | ⟨-, rfl⟩
    · exact .produces (by simp [Instr.mnemonic, obufWriters]) (absurd (by simp [Instr.mnemonic, cntWriters]))
    · exact .fails nofun
    · exact .fails nofun
  | bcd2imei m =>
    rcases execBcd2imei_cases h with ⟨-, ⟨_, -, rfl⟩ | ⟨-, rfl⟩⟩ | ⟨-, rfl⟩
    · exact .produces (by simp [Instr.mnemonic, obufWriters]) (absurd (by simp [Instr.mnemonic, cntWriters]))
    · exact .fails nofun
    · exact .fails nofun
  | xorc | c16c | c8c => exact computeChecksum_effect (by decide) h
  | xorv | c16v | c8v => exact verifyChecksum_effect (by decide) h
  | hdrp =>
    rcases execHdrp_cases h with ⟨_, _, -, rfl⟩ | ⟨-, rfl⟩
    · exact .lists
    · exact .fails nofun
  | hdrb =>
    rcases execHdrb_cases h with ⟨-, -, rfl⟩ | ⟨-, rfl⟩
    · exact .of_memWrite (by decide)
    · exact .fails nofun
  | fhdr =>
    rcases execFhdr_cases h with ⟨-, rfl⟩ | ⟨-, ⟨_, _, -, rfl⟩ | ⟨e, he, rfl⟩⟩
    · exact .fails nofun
    · exact .accepts
    · exact .rejects (by rcases parseFrameHeader_error he with rfl | rfl | rfl <;> nofun)
  | fchk =>
    rcases execFchk_cases h with ⟨-, rfl⟩ | ⟨-, -, rfl⟩ | ⟨-, -, -, rfl⟩ | ⟨-, -, -, _, _, -, rfl, rfl⟩
    · exact .fails nofun
    · exact .fails nofun
    · exact .fails nofun
    · exact .judges

/-! ### The parts of the state a command leaves alone -/

/-- What `t` holds in the registers and buffers that commands write (R22), in the surroundings `o`: operand and
configuration registers, ILEN, IBUF and the model's own fields. -/
def State.resultsOver (o t : State) : State :=
  { o with
    res := t.res, cnt := t.cnt, err := t.err, vok := t.vok, fst := t.fst
    olen := t.olen, obuf := t.obuf, idn := t.idn, idl := t.idl }

/-- A command changes nothing outside the registers and buffers of R22. -/
theorem exec_resultsOver {i : Instr} {s t : State} (h : exec i s = .next t) : s.resultsOver t = t := by
  cases exec_effect h <;> rfl

theorem sameOperands_resultsOver (s t : State) : sameOperands s (s.resultsOver t) :=
  ⟨rfl, rfl, rfl, rfl, rfl, rfl, rfl, fun _ => rfl, rfl, rfl, rfl, rfl, rfl⟩

theorem exec_sameOperands {i : Instr} {s t : State} (h : exec i s = .next t) : sameOperands s t :=
  exec_resultsOver h ▸ sameOperands_resultsOver s t

theorem obufAt_congr {s t : State} (hn : t.olen = s.olen) (hb : t.obuf = s.obuf) (a : Nat) :
    t.obufAt a = s.obufAt a := by
  simp only [State.obufAt, hn, hb]

theorem idlAt_congr {s t : State} (hn : t.idn = s.idn) (hl : t.idl = s.idl) (j : Nat) : t.idlAt j = s.idlAt j := by
  simp only [State.idlAt, hn, hl]

theorem Effect.res_eq {i : Instr} {s t : State} (h : Effect s i t) (hi : i.mnemonic ∉ resWriters) : t.res = s.res := by
  cases h with
  | fails | rejects | produces | lists => rfl
  | reads h => exact absurd ((by decide : _ ⊆ resWriters) h) hi
  | verifies h => exact absurd ((by decide : _ ⊆ resWriters) h) hi
  | accepts | judges => exact absurd (by decide) hi

theorem Effect.cnt_eq {i : Instr} {s t : State} (h : Effect s i t) (hi : i.mnemonic ∉ cntWriters) : t.cnt = s.cnt := by
  cases h with
  | fails | rejects => rfl
  | produces _ hc => exact hc hi
  | reads h => exact absurd ((by decide : _ ⊆ cntWriters) h) hi
  | verifies h => exact absurd ((by decide : _ ⊆ cntWriters) h) hi
  | lists | accepts | judges => exact absurd (by decide) hi

theorem Effect.obuf_eq {i : Instr} {s t : State} (h : Effect s i t) (hi : i.mnemonic ∉ obufWriters) :
    t.olen = s.olen ∧ t.obuf = s.obuf := by
  cases h with
  | produces h => exact absurd h hi
  | _ => exact ⟨rfl, rfl⟩

theorem Effect.idl_eq {i : Instr} {s t : State} (h : Effect s i t) (hi : i.mnemonic ≠ "HDRP") :
    t.idn = s.idn ∧ t.idl = s.idl := by
  cases h with
  | lists => exact absurd rfl hi
  | _ => exact ⟨rfl, rfl⟩

theorem Effect.fst_eq {i : Instr} {s t : State} (h : Effect s i t) (hi : i.mnemonic ∉ ["FHDR", "FCHK"]) :
    t.fst = s.fst := by
  cases h with
  | accepts | rejects | judges => exact absurd (by decide) hi
  | _ => rfl

/-- Settles O49: the frame of each kind of `Effect`, one column of R22 at a time. -/
theorem commandFrame : Obligations.CommandFrame := by
  intro i s t h
  have he := exec_effect h
  refine ⟨exec_sameOperands h, he.res_eq, he.cnt_eq, fun hi => ?_, fun hi => ?_, he.fst_eq⟩
  · obtain ⟨hn, hb⟩ := he.obuf_eq hi
    exact ⟨hn, hb, obufAt_congr hn hb⟩
  · obtain ⟨hn, hl⟩ := he.idl_eq hi
    exact ⟨hn, hl, idlAt_congr hn hl⟩

/-! ### What a byte-producing command leaves in OBUF -/

/-- A byte-producing command writes OBUF whole or, when it fails, not at all (R11, R36). -/
theorem Effect.obuf_of_mem_obufWriters {i : Instr} {s t : State} (h : Effect s i t) (hi : i.mnemonic ∈ obufWriters) :
    (t.err = .ok ∧ ∃ v : List Byte, t.olen = v.length ∧ ∀ a, t.obufAt a = v[a]?) ∨
    (t.err ≠ .ok ∧ t.olen = s.olen ∧ t.obuf = s.obuf) := by
  cases h with
  | fails he => exact .inr ⟨he, rfl, rfl⟩
  | @produces _ v => exact .inl ⟨rfl, v, rfl, memWrite_obufAt s v⟩
  | reads h => exact absurd hi ((by decide : ∀ m ∈ _, m ∉ obufWriters) _ h)
  | verifies h => exact absurd hi ((by decide : ∀ m ∈ _, m ∉ obufWriters) _ h)
  | lists | accepts | rejects | judges => exact absurd hi (by decide)

/-- Settles O50: on success OBUF holds the bytes written and no others, on failure OBUF and OLEN are as before. -/
theorem outputBufferFrame : Obligations.OutputBufferFrame := by
  intro i s t hi h
  rcases (exec_effect h).obuf_of_mem_obufWriters hi with ⟨he, v, hn, hv⟩ | ⟨he, hn, hb⟩
  · refine ⟨fun _ a => ?_, absurd he⟩
    rw [hv, hn, isSome_getElem?]
  · exact ⟨(absurd · he), fun _ => ⟨hn, obufAt_congr hn hb⟩⟩

/-! ### VOK -/

theorem claimMatches_iff (computed claim : Word) : claimMatches computed claim = true ↔ computed = claim :=
  beq_iff_eq

/-- VOK is set by a verifying command that completed with RES equal to CLAIM, and by nothing else (R27). -/
theorem Effect.vok_iff {i : Instr} {s t : State} (h : Effect s i t) :
    t.vok = true ↔ i.mnemonic ∈ verifiers ∧ t.err = .ok ∧ t.res = s.claim := by
  cases h with
  | fails he | rejects he => exact ⟨nofun, fun ⟨_, hok, _⟩ => absurd hok he⟩
  | reads hi => exact ⟨nofun, fun ⟨hv, _⟩ => absurd hv ((by decide : ∀ m ∈ _, m ∉ verifiers) _ hi)⟩
  | produces hi => exact ⟨nofun, fun ⟨hv, _⟩ => absurd hv ((by decide : ∀ m ∈ _, m ∉ verifiers) _ hi)⟩
  | lists | accepts => exact ⟨nofun, fun ⟨hv, _⟩ => absurd hv (by decide)⟩
  | @verifies _ r _ hi =>
    have hv : i.mnemonic ∈ verifiers := (by decide : _ ⊆ verifiers) hi
    simp [hv, claimMatches_iff]
  | @judges r =>
    have hv : Instr.fchk.mnemonic ∈ verifiers := by decide
    by_cases hr : r = s.claim <;> simp [hv, claimMatches_iff, hr]

end Sys2Proof.Machine

/-! SUPPORT. What a command reads: its outcome is the same in any two states that agree on the inputs listed for it, so
what it is not listed as reading has no effect. -/

namespace Sys2Proof.Machine

open Sys2Proof.Claims

/-- The commands that do not read OFF (10_state R20). -/
def offIgnorers : List String := ["WRINT", "WRF32LE", "HDRB"]

/-- The commands that read LEN (R20). -/
def lenReaders : List String :=
  ["BCD2STR", "STR2BCD", "IMEI2BCD", "XORC", "XORV", "C16C", "C16V", "C8C", "C8V", "FCHK"]

/-- The commands that read VAL (R20). -/
def valReaders : List String := ["WRINT", "WRF32LE", "STR2BCD"]

/-- The inputs of `i` agree in the states `s` and `o` (10_state R20, R30, R31): the parameters, IBUF below ILEN and the
ID list for every command, each operand and configuration register for the commands that read it. Of FPRE only the
preamble constant counts. -/
structure SameInputs (i : Instr) (s o : State) : Prop where
  config : o.config = s.config
  ilen : o.ilen = s.ilen
  memRead : ∀ a n, a + n ≤ s.ilen → o.memRead a n = s.memRead a n
  fieldIds : (o.resultsOver s).fieldIds = s.fieldIds
  off : i.mnemonic ∉ offIgnorers → o.off = s.off
  len : i.mnemonic ∈ lenReaders → o.len = s.len
  val : i.mnemonic ∈ valReaders → o.val = s.val
  claim : i.mnemonic ∈ verifiers → o.claim = s.claim
  fcfg : i.mnemonic ∈ ["FHDR", "FCHK"] → o.fcfg = s.fcfg
  preamble : i.mnemonic = "FHDR" → preamble o.fcfg o.fpre = preamble s.fcfg s.fpre

theorem SameInputs.refl (i : Instr) (s : State) : SameInputs i s s :=
  ⟨rfl, rfl, fun _ _ _ => rfl, rfl, fun _ => rfl, fun _ => rfl, fun _ => rfl, fun _ => rfl, fun _ => rfl, fun _ => rfl⟩

/-- The state in which a command is run again: the results of `s` over the inputs of `o`, with any value of VOK. -/
def State.rerun (o s : State) (vok : Bool) : State := { o.resultsOver s with vok := vok }

/-- A command run again: once `x` has answered, the rest of it may be compared result by result. -/
theorem settle_bind_rerun {α : Type} {o s : State} {b : Bool} {f g : α → Except ErrCode State} (x : Except ErrCode α)
    (h : ∀ a, settle (o.rerun s b) (f a) = o.resultsOver (settle s (g a))) :
    settle (o.rerun s b) (x >>= f) = o.resultsOver (settle s (x >>= g)) := by
  cases x with
  | ok a => exact h a
  | error e => rfl

theorem complete_bind_rerun {α : Type} {o s : State} {b : Bool} {f g : α → Except ErrCode State} (x : Except ErrCode α)
    (h : ∀ a, settle (o.rerun s b) (f a) = o.resultsOver (settle s (g a))) :
    complete (o.rerun s b) (x >>= f) = mapNext o.resultsOver (complete s (x >>= g)) :=
  congrArg Host.Outcome.next (settle_bind_rerun x h)

section
variable {i : Instr} {s o : State} (h : SameInputs i s o) (b : Bool)
include h

theorem SameInputs.rerun_config : (o.rerun s b).config = s.config := h.config

theorem SameInputs.rerun_len (hi : i.mnemonic ∈ lenReaders) : (o.rerun s b).len = s.len := h.len hi

theorem SameInputs.rerun_val (hi : i.mnemonic ∈ valReaders) : (o.rerun s b).val = s.val := h.val hi

theorem SameInputs.rerun_claim (hi : i.mnemonic ∈ verifiers) : (o.rerun s b).claim = s.claim := h.claim hi

theorem SameInputs.rerun_fcfg (hi : i.mnemonic ∈ ["FHDR", "FCHK"]) : (o.rerun s b).fcfg = s.fcfg := h.fcfg hi

theorem SameInputs.rerun_off (hi : i.mnemonic ∉ offIgnorers) : (o.rerun s b).off = s.off := h.off hi

theorem SameInputs.rerun_ilen : (o.rerun s b).ilen = s.ilen := h.ilen

theorem SameInputs.rerun_memRead {a n : Nat} (hn : a + n ≤ s.ilen) : (o.rerun s b).memRead a n = s.memRead a n :=
  h.memRead a n hn

theorem SameInputs.rerun_fieldIds : (o.rerun s b).fieldIds = s.fieldIds := h.fieldIds

theorem SameInputs.rerun_payload : (o.rerun s b).payload = s.payload := by
  unfold State.payload
  rw [h.rerun_ilen]
  exact h.rerun_memRead b (Nat.zero_add _).le

theorem SameInputs.rerun_span (hi : i.mnemonic ∉ offIgnorers) (n : Nat) :
    operandSpan (o.rerun s b) n = operandSpan s n := by
  unfold operandSpan
  rw [h.rerun_off b hi, h.rerun_ilen]
  split
  · rw [h.rerun_memRead b ‹_›]
  · rfl

/-- The frame parser reads no more of FPRE than the preamble constant (R31, R187). -/
theorem SameInputs.rerun_parse (hi : i.mnemonic = "FHDR") (buf : List Byte) (start : Nat) :
    parseFrameHeader (o.rerun s b).fcfg (o.rerun s b).fpre buf start = parseFrameHeader s.fcfg s.fpre buf start := by
  have hp : Machine.preamble (o.rerun s b).fcfg (o.rerun s b).fpre = Machine.preamble s.fcfg s.fpre := h.preamble hi
  rw [h.rerun_fcfg b (by simp [hi])] at hp ⊢
  simp only [parseFrameHeader, hp]

/-- XORC, C16C and C8C. -/
theorem computeChecksum_rerun (hoff : i.mnemonic ∉ offIgnorers) (hlen : i.mnemonic ∈ lenReaders)
    (checksum : List Byte → Word) :
    computeChecksum checksum (o.rerun s b) = mapNext o.resultsOver (computeChecksum checksum s) := by
  simp only [computeChecksum, ← h.rerun_len b hlen, ← h.rerun_span b hoff]
  exact complete_bind_rerun _ fun _ => rfl

/-- XORV, C16V and C8V. -/
theorem verifyChecksum_rerun (hoff : i.mnemonic ∉ offIgnorers) (hlen : i.mnemonic ∈ lenReaders)
    (hclaim : i.mnemonic ∈ verifiers) (checksum : List Byte → Word) :
    verifyChecksum checksum (o.rerun s b) = mapNext o.resultsOver (verifyChecksum checksum s) := by
  simp only [verifyChecksum, ← h.rerun_len b hlen, ← h.rerun_claim b hclaim, ← h.rerun_span b hoff]
  exact complete_bind_rerun _ fun _ => rfl

end

/-- Where the inputs of a command agree it answers the same results, over whatever else the other state holds; VOK is no
input of any command (R27). -/
theorem exec_rerun {i : Instr} {s o : State} (h : SameInputs i s o) (b : Bool) :
    exec i (o.rerun s b) = mapNext o.resultsOver (exec i s) := by
  cases i with
  | rdint w e sg =>
    simp only [exec, execRdint, ← h.rerun_span b (by simp [Instr.mnemonic, offIgnorers])]
    exact complete_bind_rerun _ fun _ => rfl
  | wrint w e sg =>
    simp only [exec, execWrint, ← h.rerun_val b (by simp [Instr.mnemonic, valReaders])]
    exact complete_bind_rerun _ fun _ => rfl
  | rdf32le =>
    simp only [exec, execRdf32le, ← h.rerun_span b (by decide)]
    exact complete_bind_rerun _ fun _ => rfl
  | wrf32le =>
    simp only [exec, execWrf32le, ← h.rerun_val b (by decide)]
    split <;> rfl
  | bcd2str =>
    simp only [exec, execBcd2str, ← h.rerun_len b (by decide), ← h.rerun_span b (by decide)]
    exact complete_bind_rerun _ fun _ => settle_bind_rerun _ fun _ => rfl
  | str2bcd =>
    simp only [exec, execStr2bcd, ← h.rerun_len b (by decide), ← h.rerun_val b (by decide), ← h.rerun_config b,
      ← h.rerun_span b (by decide)]
    refine complete_bind_rerun _ fun str => ?_
    split
    · rfl
    · exact settle_bind_rerun _ fun _ => rfl
  | imei2bcd m =>
    simp only [exec, execImei2bcd, ← h.rerun_len b (by simp [Instr.mnemonic, lenReaders]),
      ← h.rerun_span b (by simp [Instr.mnemonic, offIgnorers])]
    exact complete_bind_rerun _ fun _ => settle_bind_rerun _ fun _ => rfl
  | bcd2imei m =>
    simp only [exec, execBcd2imei, ← h.rerun_span b (by simp [Instr.mnemonic, offIgnorers])]
    exact complete_bind_rerun _ fun _ => settle_bind_rerun _ fun _ => rfl
  | xorc => exact computeChecksum_rerun h b (by decide) (by decide) xorSumWord
  | c16c => exact computeChecksum_rerun h b (by decide) (by decide) crc16Word
  | c8c =>
    simp only [exec, execC8c, ← h.rerun_config b]
    exact computeChecksum_rerun h b (by decide) (by decide) _
  | xorv => exact verifyChecksum_rerun h b (by decide) (by decide) (by decide) xorSumWord
  | c16v => exact verifyChecksum_rerun h b (by decide) (by decide) (by decide) crc16Word
  | c8v =>
    simp only [exec, execC8v, ← h.rerun_config b]
    exact verifyChecksum_rerun h b (by decide) (by decide) (by decide) _
  | hdrp =>
    simp only [exec, execHdrp, ← h.rerun_payload b, ← h.rerun_off b (by decide)]
    exact complete_bind_rerun _ fun _ => rfl
  | hdrb =>
    simp only [exec, execHdrb, ← h.rerun_fieldIds b, ← h.rerun_config b]
    split
    · rfl
    split
    · rfl
    · exact complete_bind_rerun _ fun _ => rfl
  | fhdr =>
    simp only [exec, execFhdr, fhdrState, ← h.rerun_payload b, ← h.rerun_off b (by decide), ← h.rerun_parse b rfl]
    rw [← h.rerun_fcfg b (by decide)]
    split
    · split <;> rfl
    · rfl
  | fchk =>
    simp only [exec, execFchk, ← h.rerun_fcfg b (by decide), ← h.rerun_len b (by decide), ← h.rerun_claim b (by decide),
      ← h.rerun_config b, ← h.rerun_span b (by decide)]
    split
    · rfl
    by_cases hf : s.fst ≠ .readingBody
    · rw [if_pos hf, if_pos (show (o.rerun s b).fst ≠ .readingBody from hf)]
      rfl
    · rw [if_neg hf, if_neg (show ¬ (o.rerun s b).fst ≠ .readingBody from hf)]
      exact complete_bind_rerun _ fun _ => rfl

end Sys2Proof.Machine

/-! SUPPORT. The remaining statements of 10_state: operands that have no effect, VOK, reset and the STATUS word. -/

namespace Sys2Proof.Machine

open Sys2Proof.Claims

/-! ### Statements about what has no effect -/

theorem mapNext_congr {f g : State → State} {r : Host.Outcome State Fault Refusal} (h : ∀ t, r = .next t → f t = g t) :
    mapNext f r = mapNext g r := by
  cases r with
  | next t => exact congrArg _ (h t rfl)
  | fault | refused => rfl

theorem mapNext_id (r : Host.Outcome State Fault Refusal) : mapNext id r = r := by cases r <;> rfl

/-- An update of inputs that the command does not read commutes with the command. -/
theorem exec_update {i : Instr} {s : State} {φ : State → State}
    (hφ : ∀ t, (φ s).resultsOver t = φ (s.resultsOver t)) (h : SameInputs i s (φ s)) :
    exec i (φ s) = mapNext φ (exec i s) := by
  have hs : (φ s).rerun s s.vok = φ s := hφ s
  have hexec := exec_rerun h s.vok
  rw [hs] at hexec
  rw [hexec]
  refine mapNext_congr fun t ht => ?_
  rw [hφ, exec_resultsOver ht]

/-- Settles O52: each clause changes one register that the command is not listed as reading. -/
theorem unlistedOperandsHaveNoEffect : Obligations.UnlistedOperandsHaveNoEffect := by
  intro i s v f
  have same := SameInputs.refl i s
  refine ⟨fun hi => ?_, fun hi => ?_, fun hi => ?_, fun hi => ?_, fun hi => ?_, fun hi => ?_⟩
  · exact exec_update (φ := fun t => { t with off := v }) (fun _ => rfl) { same with off := absurd hi }
  · exact exec_update (φ := fun t => { t with len := v }) (fun _ => rfl) { same with len := (absurd · hi) }
  · exact exec_update (φ := fun t => { t with val := v }) (fun _ => rfl) { same with val := (absurd · hi) }
  · exact exec_update (φ := fun t => { t with claim := v }) (fun _ => rfl) { same with claim := (absurd · hi) }
  · exact exec_update (φ := fun t => { t with fcfg := f }) (fun _ => rfl)
      { same with fcfg := (absurd · hi), preamble := fun hf => absurd (by simp [hf]) hi }
  · exact exec_update (φ := fun t => { t with fpre := f }) (fun _ => rfl) { same with preamble := (absurd · hi) }

/-! ### The preamble constant -/

theorem fcfgPren_eq_pren (s : State) : fcfgPren s.fcfg = pren s := BitVec.extractLsb'_toNat ..

/-- The preamble constant is a function of the PREN low bytes of FPRE (10_state R31). -/
theorem preamble_congr {f p q : CmdWord} (h : p.toNat % 2 ^ (8 * fcfgPren f) = q.toNat % 2 ^ (8 * fcfgPren f)) :
    preamble f p = preamble f q := by
  refine List.map_congr_left fun i hi => BitVec.eq_of_getLsbD_eq fun k hk => ?_
  have hlt : 8 * i + k < 8 * fcfgPren f := by
    have := List.mem_range.1 hi
    omega
  have hbit := congrArg (Nat.testBit · (8 * i + k)) h
  simpa [fpreByte, hk, hlt, Nat.testBit_mod_two_pow, BitVec.testBit_toNat] using hbit

/-- Settles O53: the two values of FPRE give one preamble constant, and FHDR reads no more of FPRE. -/
theorem unusedPreambleBytesIgnored : Obligations.UnusedPreambleBytesIgnored := by
  intro s p hp
  rw [← fcfgPren_eq_pren] at hp
  exact exec_update (φ := fun t => { t with fpre := p }) (fun _ => rfl)
    { SameInputs.refl .fhdr s with preamble := fun _ => preamble_congr hp }

/-! ### VOK -/

theorem exec_ignores_vok (i : Instr) (s : State) (b : Bool) : exec i { s with vok := b } = exec i s :=
  calc exec i { s with vok := b }
      = mapNext s.resultsOver (exec i s) := exec_rerun (.refl i s) b
    _ = mapNext id (exec i s) := mapNext_congr fun _ => exec_resultsOver
    _ = exec i s := mapNext_id _

/-! ### Illegal command words -/

/-- A field of the word that a row's mask covers whole holds what it holds in the row's match (30_encoding R73). -/
theorem field_of_masked {w mask m : CmdWord} {lo n : Nat} (h : w &&& mask = m)
    (hmask : mask.extractLsb' lo n = BitVec.allOnes n) : w.extractLsb' lo n = m.extractLsb' lo n := by
  rw [← h, BitVec.extractLsb'_and, hmask, BitVec.and_allOnes]

theorem toNat_field (w : CmdWord) (lo n : Nat) : (w.extractLsb' lo n).toNat = w.toNat / 2 ^ lo % 2 ^ n := by
  rw [BitVec.extractLsb'_toNat, Nat.shiftRight_eq_div_pow]

/-- A word that decodes selects a row of the table: it agrees with the row's match under the row's mask. -/
theorem exists_row_of_decode {w : CmdWord} {i : Instr} (h : decode w = .ok i) :
    ∃ row ∈ opcodeTable, w &&& row.mask = row.matchWord := by
  unfold decode at h
  split at h
  · cases h
  · rename_i row hrow
    split at h
    · exact ⟨row, List.mem_of_find?_eq_some hrow, ‹_›⟩
    · cases h

/-- The row fixes bits `lo` to `lo + n - 1` of its words to 0. -/
abbrev reserves (row : OpcodeRow) (lo n : Nat) : Prop :=
  row.mask.extractLsb' lo n = BitVec.allOnes n ∧ row.matchWord.extractLsb' lo n = 0

theorem field_eq_zero_of_reserves {row : OpcodeRow} {w : CmdWord} (h : w &&& row.mask = row.matchWord) {lo n : Nat}
    (hr : reserves row lo n) : w.toNat / 2 ^ lo % 2 ^ n = 0 := by
  rw [← toNat_field, field_of_masked h hr.1, hr.2]
  exact Nat.zero_mod _

/-- What every row of the table demands of a word: its OPC whole, bits 31:13, and the operand fields that are not of its
format (R71, R73). -/
theorem opcodeTable_reserves : ∀ row ∈ opcodeTable,
    row.mask.extractLsb' 0 8 = BitVec.allOnes 8 ∧ (row.matchWord.extractLsb' 0 8).toNat ∈ opcodes ∧
    reserves row 13 19 ∧
    (reserves row 8 4 ∨ (row.matchWord.extractLsb' 0 8).toNat ∈ [0x01, 0x02]) ∧
    (reserves row 12 1 ∨ (row.matchWord.extractLsb' 0 8).toNat ∈ [0x07, 0x08]) := by
  decide

theorem not_illegalWord_of_decode {w : CmdWord} {i : Instr} (h : decode w = .ok i) : ¬ illegalWord w := by
  obtain ⟨row, hmem, hw⟩ := exists_row_of_decode h
  obtain ⟨hopcMask, hopc, hhigh, hfields, hlayout⟩ := opcodeTable_reserves row hmem
  have hopcode : (row.matchWord.extractLsb' 0 8).toNat = w.toNat % 256 := by
    rw [← field_of_masked hw hopcMask, toNat_field, pow_zero, Nat.div_one]
    rfl
  rw [hopcode] at hopc hfields hlayout
  rintro (hbad | hbad | ⟨hbad, hother⟩ | ⟨hbad, hother⟩)
  · exact hbad hopc
  · have hzero := field_eq_zero_of_reserves hw hhigh
    rw [Nat.mod_eq_of_lt (by have := w.isLt; omega)] at hzero
    exact hbad hzero
  · exact hfields.elim (fun hr => hbad (field_eq_zero_of_reserves hw hr)) hother
  · exact hlayout.elim (fun hr => hbad (field_eq_zero_of_reserves hw hr)) hother

/-- An illegal word marks STATUS and does nothing else (R74, R80). -/
theorem issue_of_illegalWord {w : CmdWord} (s : State) (h : illegalWord w) :
    issue w s = .next (raise .illegalCommand s) := by
  cases hd : decode w with
  | ok i => exact absurd h (not_illegalWord_of_decode hd)
  | error r => exact issue_of_reject s hd

/-- Settles O55: VOK by the kind of `Effect`, by the one write of an illegal word, and as an input nothing reads. -/
theorem vokMeansClaimMatched : Obligations.VokMeansClaimMatched := by
  refine ⟨fun i s t h => (exec_effect h).vok_iff, fun w s t hw h => ?_, exec_ignores_vok⟩
  rw [issue_of_illegalWord s hw] at h
  cases h
  rfl

/-! ### Reset -/

/-- No location of a buffer holds a specified value after reset (10_state R35 to R37, R41). -/
theorem reset_specifies_nothing (a : Nat) :
    State.reset.ibufAt a = none ∧ State.reset.obufAt a = none ∧ Memory.lookup State.reset.idl a = none := by
  simp [State.ibufAt, State.obufAt]

/-- Settles O12: every field of the reset state by definition, and its buffers by `reset_specifies_nothing`. -/
theorem resetStateValues : Obligations.ResetStateValues :=
  ⟨rfl, rfl, rfl, rfl, rfl, rfl, rfl, rfl, rfl, rfl, rfl, rfl, rfl, rfl, reset_specifies_nothing⟩

/-- Settles O11: the step performs `hostReset`, which takes every engine field from the reset state. -/
theorem resetActionClearsState : Obligations.ResetActionClearsState := by
  intro s rest hp
  refine ⟨_, (step_cons hp).trans (performAction_reset _), ?_⟩
  exact ⟨rfl, rfl, rfl, rfl, rfl, rfl, rfl, rfl, rfl, rfl, rfl, rfl, rfl, rfl, rfl, reset_specifies_nothing⟩

/-- The reset state meets the invariant under any parameters that meet R5: the capacities bound nothing but zeros. -/
theorem reset_inv {c : Config} (hc : c.wf = true) : ({ State.reset with config := c } : State).Inv where
  config_wf := hc
  ilen_le := Nat.zero_le _
  olen_le := Nat.zero_le _
  idn_le := Nat.zero_le _
  ibuf_wf := rfl
  ibuf_lt := nofun
  obuf_indices := rfl
  idl_wf := rfl
  idl_lt := nofun
  cnt_le := Nat.zero_le _
  fst_observable := rfl
  err_produced := rfl
  vok_err := nofun

/-- Settles O58: `State.reset` itself is the case of the default parameters. -/
theorem invariantAtReset : Obligations.InvariantAtReset :=
  ⟨reset_inv (c := Config.default) (by decide), fun _ hc => reset_inv hc⟩

/-! ### The STATUS word -/

/-- The fields of STATUS stand where R25 puts them. -/
theorem status_fields (s : State) :
    s.status.extractLsb' 0 4 = s.err.code ∧ s.status.getLsbD 4 = s.vok ∧
    s.status.extractLsb' 5 3 = s.fst.code ∧ s.status.extractLsb' 8 24 = 0#24 := by
  unfold State.status
  refine ⟨?_, ?_, ?_, ?_⟩
  · rw [BitVec.extractLsb'_append_eq_of_add_le (by decide), BitVec.extractLsb'_append_eq_of_add_le (by decide),
      BitVec.extractLsb'_append_eq_right]
  · rw [BitVec.getLsbD_append, if_pos (by decide), BitVec.getLsbD_append, if_pos (by decide), BitVec.getLsbD_append,
      if_neg (by decide)]
    exact (BitVec.getLsbD_ofBool ..).trans (Bool.true_and _)
  · rw [BitVec.extractLsb'_append_eq_of_add_le (by decide)]
    exact BitVec.extractLsb'_append_eq_left
  · exact BitVec.extractLsb'_append_eq_left

/-- Settles O57: the layout of STATUS field by field, and the codes one by one. -/
theorem statusWordLayout : Obligations.StatusWordLayout :=
  ⟨status_fields, rfl, rfl, rfl⟩

end Sys2Proof.Machine

/-! SUPPORT. The statements of 20_memory about host actions, and O51, what lies in IBUF outside a command's reach. -/

namespace Sys2Proof.Machine

open Sys2Proof.Claims

/-! ### IBUF at and above ILEN -/

/-- A read of IBUF below ILEN is the same under contents that agree there, unspecified bytes included (20_memory R53). -/
theorem memRead_withIbuf {s : State} {other : List Host.Cell} (h : ∀ a < s.ilen, Memory.lookup other a = s.ibufAt a)
    {a n : Nat} (hn : a + n ≤ s.ilen) : ({ s with ibuf := other } : State).memRead a n = s.memRead a n := by
  refine List.map_congr_left fun k hk => ?_
  have hk' := List.mem_range.1 hk
  have hbyte : ({ s with ibuf := other } : State).ibufAt (a + k) = s.ibufAt (a + k) := h _ (by omega)
  simp only [State.ibufByte, hbyte]

/-- Settles O51: contents that agree below ILEN are the same inputs to every command. -/
theorem noReadAtOrAboveIlen : Obligations.NoReadAtOrAboveIlen := by
  intro i s other h
  exact exec_update (φ := fun t => { t with ibuf := other }) (fun _ => rfl)
    { SameInputs.refl i s with memRead := fun _ _ => memRead_withIbuf h }

/-! ### Which host actions are taken -/

/-- `step_cons` with the state an action finds under its name. -/
theorem step_eq_performAction {s : State} {a : HostAction} {rest : List HostAction} (h : s.pending = a :: rest) :
    step s = performAction a (taking rest s) :=
  step_cons h

theorem writable_iff (c : Config) (r : Reg) (v : Nat) :
    r.writable c v = true ↔ hostMay c.ibufCap (.writeReg r v) := by
  cases r <;> simp only [Reg.writable, decide_eq_true_eq] <;> simp [hostMay, Config.idlCap]

theorem inRange_iff (c : Config) (loc : Loc) : loc.inRange c = true ↔ hostMay c.ibufCap (.read loc) := by
  cases loc with
  | reg r => exact iff_of_true rfl trivial
  | ibuf | obuf | idl => exact decide_eq_true_iff

/-- The model's own test of a host action is the contract in numbers (R50, R60). -/
theorem wellFormed_iff_hostMay (c : Config) (a : HostAction) : a.wellFormed c = true ↔ hostMay c.ibufCap a := by
  cases a with
  | writeReg r v => exact writable_iff c r v
  | writeIbuf | writeIdl => exact decide_eq_true_iff
  | read loc => exact inRange_iff c loc
  | issue | reset => exact iff_of_true rfl trivial

/-- Every command ends in a next state (60_exceptions R205). -/
theorem exec_completes (i : Instr) (s : State) : ∃ t, exec i s = .next t := by
  cases i <;> exact ⟨_, rfl⟩

theorem issue_completes (w : CmdWord) (s : State) : ∃ t, issue w s = .next t := by
  cases hd : decode w with
  | ok i => exact issue_of_decode s hd ▸ exec_completes i s
  | error r => exact ⟨_, issue_of_reject s hd⟩

/-- A host action of R60 is always taken. -/
theorem performAction_completes {a : HostAction} {s : State} (h : hostMay s.config.ibufCap a) :
    ∃ t, performAction a s = .next t := by
  unfold performAction
  rw [if_pos ((wellFormed_iff_hostMay _ _).2 h)]
  cases a with
  | issue w => exact issue_completes w s
  | _ => exact ⟨_, rfl⟩

/-- Any other action is refused by name. -/
theorem performAction_of_not_hostMay {a : HostAction} {s : State} (h : ¬ hostMay s.config.ibufCap a) :
    performAction a s = .refused (.outsideHostContract a) :=
  performAction_refused (Bool.eq_false_of_not_eq_true (mt (wellFormed_iff_hostMay _ _).1 h))

theorem not_hostMay_writeReg_of_readOnly {r : Reg} (hr : r ∈ [Reg.res, .cnt, .status, .err, .vok, .fst, .olen])
    (cap v : Nat) : ¬ hostMay cap (.writeReg r v) := by
  revert r
  simp [hostMay]

/-- Settles O10: the model's own test is the contract in numbers, and a read-only register has no number that meets it. -/
theorem hostContractDecidesRefusal : Obligations.HostContractDecidesRefusal := by
  intro s a rest hp
  rw [step_eq_performAction hp]
  refine ⟨performAction_completes (s := taking rest s), performAction_of_not_hostMay (s := taking rest s), ?_⟩
  rintro r v hr rfl
  exact performAction_of_not_hostMay (not_hostMay_writeReg_of_readOnly hr _ v)

/-! ### Issue and the host's writes -/

/-- Settles O6: the step performs the Issue, which runs the command the word decodes to. -/
theorem stepRunsDecodedCommand : Obligations.StepRunsDecodedCommand := by
  intro s w rest i hp hd
  rw [step_eq_performAction hp, performAction_issue, issue_of_decode _ hd]

/-- A value in range is not cut by the width of the register that takes it. -/
theorem toNat_ofNat_of_lt {w v : Nat} (h : v < 2 ^ w) : (BitVec.ofNat w v).toNat = v :=
  (BitVec.toNat_ofNat ..).trans (Nat.mod_eq_of_lt h)

theorem step_writeReg {s : State} {r : Reg} {v : Nat} {rest : List HostAction} (hp : s.pending = .writeReg r v :: rest)
    (hv : hostMay s.config.ibufCap (.writeReg r v)) : step s = .next (hostWriteReg r v (taking rest s)) :=
  (step_eq_performAction hp).trans (performAction_writeReg ((writable_iff _ _ _).2 hv))

theorem step_writeIbuf {s : State} {i : Nat} {b : Byte} {rest : List HostAction}
    (hp : s.pending = .writeIbuf i b :: rest) (hi : i < s.config.ibufCap) :
    step s = .next (hostWriteIbuf i b (taking rest s)) :=
  (step_eq_performAction hp).trans (if_pos (decide_eq_true hi))

theorem step_writeIdl {s : State} {i : Nat} {e : IdEntry} {rest : List HostAction}
    (hp : s.pending = .writeIdl i e :: rest) (hi : i < 7 * s.config.ibufCap) :
    step s = .next (hostWriteIdl i e (taking rest s)) :=
  (step_eq_performAction hp).trans (if_pos (decide_eq_true hi))

/-- Settles O7: each register is a clause of `hostMay`, and a value in range is not cut by the register's width. -/
theorem hostWriteRegisterTakesValue : Obligations.HostWriteRegisterTakesValue := by
  rintro s r v rest hp _ rfl
  have hstep := step_writeReg hp
  refine ⟨?_, ?_, ?_, ?_, ?_, ?_, ?_, ?_⟩ <;> rintro rfl hv
  case refine_1 | refine_2 | refine_3 | refine_4 =>
    exact ⟨_, hstep (.inl ⟨by decide, hv⟩), toNat_ofNat_of_lt hv, rfl⟩
  case refine_5 | refine_6 => exact ⟨_, hstep (.inr (.inl ⟨by decide, hv⟩)), toNat_ofNat_of_lt hv, rfl⟩
  case refine_7 => exact ⟨_, hstep (.inr (.inr (.inl ⟨rfl, hv⟩))), rfl, rfl⟩
  case refine_8 => exact ⟨_, hstep (.inr (.inr (.inr ⟨rfl, hv⟩))), rfl, rfl⟩

/-- Settles O8: the laws of `Memory.insert`, at the buffer the action writes. -/
theorem hostWriteBufferReadsBack : Obligations.HostWriteBufferReadsBack := by
  intro s i rest
  refine ⟨fun b hp hi => ⟨_, step_writeIbuf hp hi, ?_, fun j hj => ?_, rfl⟩,
    fun e hp hi => ⟨_, step_writeIdl hp hi, ?_, fun j hj => ?_, rfl⟩⟩
  · exact Memory.lookup_insert_self ..
  · exact Memory.lookup_insert_of_ne _ _ hj
  · exact Memory.lookup_insert_self ..
  · exact Memory.lookup_insert_of_ne _ _ hj

/-! ### The host's reads -/

theorem step_read {s : State} {loc : Loc} {rest : List HostAction} (hp : s.pending = .read loc :: rest)
    (hloc : hostMay s.config.ibufCap (.read loc)) : step s = .next (hostRead loc (taking rest s)) :=
  (step_eq_performAction hp).trans (if_pos ((inRange_iff _ _).2 hloc))

theorem toNat_append_eq_add {m n : Nat} (x : BitVec m) (y : BitVec n) :
    (x ++ y).toNat = x.toNat * 2 ^ n + y.toNat := by
  rw [BitVec.toNat_append, ← Nat.shiftLeft_add_eq_or_of_lt y.isLt, Nat.shiftLeft_eq]

/-- The number STATUS reads as (10_state R25). -/
theorem status_toNat (s : State) : s.status.toNat = s.err.code.toNat + 16 * s.vok.toNat + 32 * s.fst.code.toNat := by
  simp only [State.status, toNat_append_eq_add, BitVec.toNat_ofBool, BitVec.toNat_ofNat]
  omega

/-- Within the invariant the length registers lose nothing as 64-bit values (R5: IBUF_CAP is at most 9362). -/
theorem inv_lengths_lt {s : State} (hs : s.Inv) : s.ilen < 2 ^ 64 ∧ s.olen < 2 ^ 64 ∧ s.idn < 2 ^ 64 := by
  obtain ⟨-, hcap⟩ : 32 ≤ s.config.ibufCap ∧ s.config.ibufCap ≤ 9362 := by
    simpa [Config.wf] using hs.config_wf
  have hilen := hs.ilen_le
  have holen := hs.olen_le
  have hidn := hs.idn_le
  unfold Config.obufCap at holen
  unfold Config.idlCap at hidn
  omega

/-- A specified byte of OBUF reads as what is held. -/
theorem obufByte_of_specified {s : State} {i : Nat} {b : Byte} (h : s.obufAt i = some b) : s.obufByte i = b := by
  simp [State.obufByte, h]

/-- Settles O9: the step records `locValue`; each clause says what that is for one location, and every value narrower
than 64 bits is zero-extended. -/
theorem hostReadReturnsValue : Obligations.HostReadReturnsValue := by
  intro s loc rest hp hloc
  refine ⟨_, locValue (taking rest s) loc, step_read hp hloc, rfl, ?_⟩
  refine ⟨?_, ?_, ?_, ?_, ?_, ?_, ?_, ?_, ?_, ?_, ?_, ?_, fun hs => ?_, fun hs => ?_, fun hs => ?_,
    fun i b => ?_, fun i b => ?_, fun i e => ?_⟩ <;> rintro rfl
  case refine_1 | refine_2 | refine_3 | refine_4 | refine_5 | refine_6 => rfl
  case refine_7 | refine_8 | refine_10 | refine_12 => exact BitVec.toNat_setWidth_of_le (by decide)
  · exact (BitVec.toNat_setWidth_of_le (by decide)).trans (status_toNat s)
  · exact (BitVec.toNat_setWidth_of_le (by decide)).trans (BitVec.toNat_ofBool _)
  · obtain ⟨hilen, -, -⟩ := inv_lengths_lt hs
    exact toNat_ofNat_of_lt hilen
  · obtain ⟨-, holen, -⟩ := inv_lengths_lt hs
    exact toNat_ofNat_of_lt holen
  · obtain ⟨-, -, hidn⟩ := inv_lengths_lt hs
    exact toNat_ofNat_of_lt hidn
  · intro hb
    rw [← ibufByte_of_specified (s := taking rest s) hb]
    exact BitVec.toNat_setWidth_of_le (by decide)
  · intro hb
    rw [← obufByte_of_specified (s := taking rest s) hb]
    exact BitVec.toNat_setWidth_of_le (by decide)
  · intro he
    rw [← idlEntry_of_specified (s := taking rest s) he]
    exact BitVec.toNat_setWidth_of_le (by decide)

end Sys2Proof.Machine

/-! SUPPORT. A command run again on the state it left, with no host write in between, leaves that state (20_memory R57),
and O54 (CommandsAreIdempotent). -/

namespace Sys2Proof.Machine

open Sys2Proof.Claims

/-! ### A command run again on the state it left

A command that began in `s` and left `t` is run again in `s.resultsOver t`, which is `t` (`exec_resultsOver`) and has
the operands of `s` by definition. The lemmas below follow the run through the operations commands are made of. -/

/-- A first part `x` that answers the same both times: on its error the first run left a failure of `s`, which a second
failure does not change. -/
theorem settle_bind_again {α : Type} {s t : State} {x : Except ErrCode α} {f g : α → Except ErrCode State}
    (h : settle s (x >>= f) = t) (hfg : ∀ a, settle s (f a) = t → settle (s.resultsOver t) (g a) = t) :
    settle (s.resultsOver t) (x >>= g) = t := by
  cases x with
  | ok a => exact hfg a h
  | error e => subst h; rfl

theorem settle_ite_again {c : Prop} [Decidable c] {s t : State} {x x' y y' : Except ErrCode State}
    (h : settle s (if c then x else y) = t) (hx : settle s x = t → settle (s.resultsOver t) x' = t)
    (hy : settle s y = t → settle (s.resultsOver t) y' = t) :
    settle (s.resultsOver t) (if c then x' else y') = t := by
  by_cases hc : c
  · rw [if_pos hc] at h ⊢
    exact hx h
  · rw [if_neg hc] at h ⊢
    exact hy h

theorem settle_error_again {s t : State} {e : ErrCode} (h : settle s (.error e) = t) :
    settle (s.resultsOver t) (.error e) = t := by
  subst h
  rfl

/-- `settle_bind_again` for a whole command. -/
theorem complete_bind_again {α : Type} {s t : State} {x : Except ErrCode α} {f g : α → Except ErrCode State}
    (h : complete s (x >>= f) = .next t) (hfg : ∀ a, settle s (f a) = t → settle (s.resultsOver t) (g a) = t) :
    complete (s.resultsOver t) (x >>= g) = .next t :=
  congrArg _ (settle_bind_again (Host.Outcome.next.inj h) hfg)

theorem complete_ite_again {c : Prop} [Decidable c] {s t : State} {x x' y y' : Except ErrCode State}
    (h : complete s (if c then x else y) = .next t) (hx : settle s x = t → settle (s.resultsOver t) x' = t)
    (hy : settle s y = t → settle (s.resultsOver t) y' = t) :
    complete (s.resultsOver t) (if c then x' else y') = .next t :=
  congrArg _ (settle_ite_again (Host.Outcome.next.inj h) hx hy)

/-- HDRB reads the ID list, which only HDRP writes. -/
theorem execHdrb_again {s t : State} (h : execHdrb s = .next t) : execHdrb (s.resultsOver t) = .next t := by
  obtain ⟨hn, hl⟩ := (exec_effect (i := .hdrb) h).idl_eq (by decide)
  have hfld : (s.resultsOver t).fieldIds = s.fieldIds := by
    simp only [State.fieldIds, State.idlEntry, idlAt_congr (s := s) (t := s.resultsOver t) hn hl]
    rw [show (s.resultsOver t).idn = s.idn from hn]
    rfl
  unfold execHdrb
  rw [hfld]
  exact complete_ite_again h settle_error_again fun h =>
    settle_ite_again h settle_error_again fun h => settle_bind_again h fun | _, rfl => rfl

/-! ### FHDR -/

theorem fhdrState_of_illegal {s : State} (hl : legalFcfg s.fcfg = false) : fhdrState s = raise .illegalCommand s := by
  simp [fhdrState, hl]

theorem fhdrState_of_parse_ok {s : State} {declared n : Nat} (hl : legalFcfg s.fcfg = true)
    (hp : parseFrameHeader s.fcfg s.fpre s.payload s.off.toNat = .ok (declared, n)) :
    fhdrState s =
      succeed { s with res := BitVec.ofNat 64 declared, cnt := BitVec.ofNat 64 n, fst := .readingBody } := by
  simp [fhdrState, hl, hp]

theorem fhdrState_of_parse_error {s : State} {e : ErrCode} (hl : legalFcfg s.fcfg = true)
    (hp : parseFrameHeader s.fcfg s.fpre s.payload s.off.toNat = .error e) :
    fhdrState s = raise e { s with fst := .rejected } := by
  simp [fhdrState, hl, hp]

theorem execFhdr_again {s t : State} (h : execFhdr s = .next t) : execFhdr (s.resultsOver t) = .next t := by
  refine congrArg Host.Outcome.next ?_
  rcases execFhdr_cases h with ⟨hl, rfl⟩ | ⟨hl, ⟨_, _, hp, rfl⟩ | ⟨_, hp, rfl⟩⟩
  · exact fhdrState_of_illegal hl
  · exact fhdrState_of_parse_ok hl hp
  · exact fhdrState_of_parse_error hl hp

/-! ### Every command but FCHK -/

/-- A command that reads no field it writes leaves the same state when it is run again on it. -/
theorem exec_again {i : Instr} {s t : State} (hi : i ≠ .fchk) (h : exec i s = .next t) : exec i t = .next t := by
  suffices exec i (s.resultsOver t) = .next t from exec_resultsOver h ▸ this
  cases i with
  | rdint | wrint | rdf32le | xorc | xorv | c16c | c16v | c8c | c8v | hdrp =>
    exact complete_bind_again h fun | _, rfl => rfl
  | wrf32le => exact complete_ite_again h settle_error_again fun | rfl => rfl
  | bcd2str | imei2bcd | bcd2imei =>
    exact complete_bind_again h fun _ h => settle_bind_again h fun | _, rfl => rfl
  | str2bcd =>
    exact complete_bind_again h fun _ h =>
      settle_ite_again h settle_error_again fun h => settle_bind_again h fun | _, rfl => rfl
  | hdrb => exact execHdrb_again h
  | fhdr => exact execFhdr_again h
  | fchk => exact absurd rfl hi

/-! ### Issuing a word again -/

/-- A word that decodes selects a row of the table, which reads its operands. -/
theorem exists_row_operands_of_decode {w : CmdWord} {i : Instr} (h : decode w = .ok i) :
    ∃ row ∈ opcodeTable, w &&& row.mask = row.matchWord ∧ row.operands w = i := by
  unfold decode at h
  split at h
  · cases h
  · rename_i row hrow
    split at h
    · cases h
      exact ⟨row, List.mem_of_find?_eq_some hrow, ‹_›, rfl⟩
    · cases h

theorem matchWord_of_operands_eq_fchk : ∀ row ∈ opcodeTable, ∀ w : CmdWord, row.operands w = .fchk →
    row.mask = BitVec.allOnes 32 ∧ row.matchWord = 0x00000031#32 := by
  simp [opcodeTable]

/-- FCHK has one word (30_encoding R73). -/
theorem eq_of_decode_eq_fchk {w : CmdWord} (h : decode w = .ok .fchk) : w = 0x00000031#32 := by
  obtain ⟨row, hmem, hw, hop⟩ := exists_row_operands_of_decode h
  obtain ⟨hmask, hmatch⟩ := matchWord_of_operands_eq_fchk row hmem w hop
  rwa [hmask, hmatch, BitVec.and_allOnes] at hw

theorem idlAt_isSome_of_idlWrite (s : State) (ids : List Nat) {j : Nat} (hj : j < ids.length) :
    ((s.idlWrite ids).idlAt j).isSome = true := by
  simp [idlWrite_idlAt, hj]

/-- A command leaves its inputs specified: it does not write IBUF, and every entry HDRP lists it writes. -/
theorem exec_keeps_inputsSpecified {i : Instr} {s t : State} (h : exec i s = .next t) (hs : inputsSpecified s) :
    inputsSpecified t := by
  obtain ⟨hbuf, hids⟩ := hs
  cases exec_effect h with
  | @lists ids => exact ⟨hbuf, fun _ hj => idlAt_isSome_of_idlWrite s ids hj⟩
  | _ => exact ⟨hbuf, hids⟩

/-- A command run again at another queue and counter: with its inputs specified it depends on neither. -/
theorem exec_again_other {i : Instr} {s t : State} (hi : i ≠ .fchk) (h : exec i s = .next t) (hs : inputsSpecified s)
    (p : List HostAction) (c : Nat) : exec i (t.other p c) = .next (t.other p c) := by
  obtain ⟨hbuf, hids⟩ := exec_keeps_inputsSpecified h hs
  rw [exec_other i t p c hbuf hids, exec_again hi h]

theorem issue_again_other {w : CmdWord} {s : State} (hw : w ≠ 0x00000031#32) (hs : inputsSpecified s) :
    ∃ t, issue w s = .next t ∧ t.pending = s.pending ∧ ∀ p c, issue w (t.other p c) = .next (t.other p c) := by
  cases hd : decode w with
  | error r =>
    refine ⟨_, issue_of_reject s hd, rfl, fun p c => ?_⟩
    rw [issue_of_reject _ hd]
    rfl
  | ok i =>
    have hi : i ≠ .fchk := by
      rintro rfl
      exact hw (eq_of_decode_eq_fchk hd)
    obtain ⟨t, ht⟩ := exec_completes i s
    refine ⟨t, (issue_of_decode s hd).trans ht, ?_, fun p c => ?_⟩
    · rw [← exec_resultsOver ht]
      rfl
    · rw [issue_of_decode _ hd]
      exact exec_again_other hi ht hs p c

/-- Settles O54: a command but FCHK reads no field it writes, and with its inputs specified neither does a second Issue
read the queue or the free-value counter. -/
theorem commandsAreIdempotent : Obligations.CommandsAreIdempotent := by
  refine ⟨fun i s t hi h => exec_again hi h, fun s w rest hp hw hs => ?_⟩
  obtain ⟨t, ht, hpend, hagain⟩ := issue_again_other (s := taking (.issue w :: rest) s) hw hs
  refine ⟨t, ?_, ?_⟩
  · rw [step_eq_performAction hp, performAction_issue, ht]
  · rw [step_eq_performAction hpend, performAction_issue]
    exact hagain rest (t.freeCtr + 1)

end Sys2Proof.Machine

/-! SUPPORT. The statements of 30_encoding. The decoder answers what the row says that the word matches under its mask,
because the rows differ in OPC and every mask covers OPC whole. Encoding and decoding then agree field by field, and the
illegal words of R74 are those that match no row. -/

namespace Sys2Proof.Machine

open Sys2Proof.Claims

/-! ### The row a word selects -/

/-- The OPC values that select a command are those of the table, row by row. -/
theorem opcodes_eq_map_opcodeTable : opcodes = opcodeTable.map fun row => (opcodeOf row.matchWord).toNat := by
  decide

theorem opcodeTable_nodup : (opcodeTable.map fun row => opcodeOf row.matchWord).Nodup := by
  decide

/-- A word that matches a row has the row's OPC: no mask leaves out a bit of it (30_encoding R73). -/
theorem opcodeOf_eq_of_match {row : OpcodeRow} (hmem : row ∈ opcodeTable) {w : CmdWord}
    (hw : w &&& row.mask = row.matchWord) : opcodeOf w = opcodeOf row.matchWord :=
  have ⟨hopcMask, _⟩ := opcodeTable_reserves row hmem
  field_of_masked hw hopcMask

/-- The decoder's search finds the row that has the OPC of the word. -/
theorem find?_opcodeTable {row : OpcodeRow} (hmem : row ∈ opcodeTable) {w : CmdWord}
    (hopc : opcodeOf w = opcodeOf row.matchWord) :
    opcodeTable.find? (fun r => opcodeOf r.matchWord == opcodeOf w) = some row := by
  cases hfind : opcodeTable.find? (fun r => opcodeOf r.matchWord == opcodeOf w) with
  | none => exact absurd (beq_iff_eq.2 hopc.symm) (List.find?_eq_none.1 hfind row hmem)
  | some r =>
    have hr : opcodeOf r.matchWord = opcodeOf row.matchWord := by
      simpa [hopc] using List.find?_some hfind
    rw [List.inj_on_of_nodup_map opcodeTable_nodup (List.mem_of_find?_eq_some hfind) hmem hr]

/-- R80 as a rule about rows: a word that matches a row under its mask decodes to what the row reads from it. -/
theorem decode_of_match {row : OpcodeRow} (hmem : row ∈ opcodeTable) {w : CmdWord}
    (hw : w &&& row.mask = row.matchWord) : decode w = .ok (row.operands w) := by
  simp only [decode, find?_opcodeTable hmem (opcodeOf_eq_of_match hmem hw), if_pos hw]

/-! ### Operand fields, read from a word -/

theorem code_widthField (w : CmdWord) : (widthField w).code = w.extractLsb' 8 2 := by
  unfold widthField
  generalize w.extractLsb' 8 2 = field
  revert field
  decide

theorem ite_getLsbD (w : CmdWord) (k : Nat) : (if w.getLsbD k then 1#1 else 0#1) = w.extractLsb' k 1 := by
  rw [BitVec.getLsbD_eq_extractLsb']
  generalize w.extractLsb' k 1 = field
  revert field
  decide

theorem code_endianField (w : CmdWord) : (endianField w).code = w.extractLsb' 10 1 :=
  (apply_ite Endian.code ..).trans (ite_getLsbD w 10)

theorem code_signField (w : CmdWord) : (signField w).code = w.extractLsb' 11 1 :=
  (apply_ite Sign.code ..).trans (ite_getLsbD w 11)

theorem code_layoutField (w : CmdWord) : (layoutField w).code = w.extractLsb' 12 1 :=
  (apply_ite ImeiLayout.code ..).trans (ite_getLsbD w 12)

/-! ### Operand fields, read back from the word of a format -/

section

open BitVec

theorem width_of_formatI (opc : Byte) (w : Width) (e : Endian) (sg : Sign) :
    (formatI opc w e sg).extractLsb' 8 2 = w.code :=
  (extractLsb'_append_eq_of_add_le (by decide)).trans <| (extractLsb'_append_eq_of_add_le (by decide)).trans <|
    (extractLsb'_append_eq_of_add_le (by decide)).trans extractLsb'_append_eq_left

theorem endian_of_formatI (opc : Byte) (w : Width) (e : Endian) (sg : Sign) :
    (formatI opc w e sg).extractLsb' 10 1 = e.code :=
  (extractLsb'_append_eq_of_add_le (by decide)).trans <| (extractLsb'_append_eq_of_add_le (by decide)).trans
    extractLsb'_append_eq_left

theorem sign_of_formatI (opc : Byte) (w : Width) (e : Endian) (sg : Sign) :
    (formatI opc w e sg).extractLsb' 11 1 = sg.code :=
  (extractLsb'_append_eq_of_add_le (by decide)).trans extractLsb'_append_eq_left

theorem layout_of_formatM (opc : Byte) (m : ImeiLayout) : (formatM opc m).extractLsb' 12 1 = m.code :=
  (extractLsb'_append_eq_of_add_le (by decide)).trans extractLsb'_append_eq_left

end

@[simp] theorem widthField_formatI (opc : Byte) (w : Width) (e : Endian) (sg : Sign) :
    widthField (formatI opc w e sg) = w := by
  rw [widthField, width_of_formatI]
  cases w <;> rfl

@[simp] theorem endianField_formatI (opc : Byte) (w : Width) (e : Endian) (sg : Sign) :
    endianField (formatI opc w e sg) = e := by
  rw [endianField, BitVec.getLsbD_eq_extractLsb', endian_of_formatI]
  cases e <;> rfl

@[simp] theorem signField_formatI (opc : Byte) (w : Width) (e : Endian) (sg : Sign) :
    signField (formatI opc w e sg) = sg := by
  rw [signField, BitVec.getLsbD_eq_extractLsb', sign_of_formatI]
  cases sg <;> rfl

@[simp] theorem layoutField_formatM (opc : Byte) (m : ImeiLayout) : layoutField (formatM opc m) = m := by
  rw [layoutField, BitVec.getLsbD_eq_extractLsb', layout_of_formatM]
  cases m <;> rfl

/-! ### Decoding a word that was encoded -/

open Laws.RowMatch in
theorem rowMatch_statement (i : Instr) : Statement i :=
  i.casesOn rdint wrint rdf32le wrf32le bcd2str str2bcd imei2bcd bcd2imei xorc xorv c16c c16v c8c c8v hdrp hdrb fhdr fchk

/-- The word of an instruction matches the row of its mnemonic. -/
theorem exists_row_match_encode (i : Instr) :
    ∃ row ∈ opcodeTable, encode i &&& row.mask = row.matchWord ∧ row.mnemonic = i.mnemonic := by
  have hselected := List.mem_singleton_self i.mnemonic
  rw [← rowMatch_statement i] at hselected
  obtain ⟨row, hrow, hname⟩ := List.mem_map.1 hselected
  obtain ⟨hmem, hw⟩ := List.mem_filter.1 hrow
  exact ⟨row, hmem, beq_iff_eq.1 hw, hname⟩

/-- The row of an instruction reads from its word the operands it was encoded with. -/
theorem operands_encode (i : Instr) :
    ∀ row ∈ opcodeTable, row.mnemonic = i.mnemonic → row.operands (encode i) = i := by
  cases i <;> simp [opcodeTable, Instr.mnemonic, encode]

/-- Settles O2: the word of an instruction matches the row of its mnemonic, and that row reads back its operands. -/
theorem decodeOfEncode : Obligations.DecodeOfEncode := by
  intro i _
  obtain ⟨row, hmem, hw, hname⟩ := exists_row_match_encode i
  rw [decode_of_match hmem hw, operands_encode i row hmem hname]

/-! ### Encoding what a word decodes to -/

theorem opcode_of_formatZ (opc : Byte) : (formatZ opc).extractLsb' 0 8 = opc :=
  BitVec.extractLsb'_append_eq_right

theorem formatZ_reserved (opc : Byte) {lo n : Nat} (hlo : 8 ≤ lo) : (formatZ opc).extractLsb' lo n = 0#n :=
  (BitVec.extractLsb'_append_eq_of_le hlo).trans BitVec.extractLsb'_zero

/-- A format I word is its match outside the four operand bits, which the mask leaves out. -/
theorem formatI_of_match {opc : Byte} {w : CmdWord} (hw : w &&& 0xFFFFF0FF#32 = formatZ opc) :
    formatI opc (widthField w) (endianField w) (signField w) = w := by
  have hopc : w.extractLsb' 0 8 = opc := (field_of_masked hw (by decide)).trans (opcode_of_formatZ opc)
  have hhigh : w.extractLsb' 12 20 = 0#20 := (field_of_masked hw (by decide)).trans (formatZ_reserved opc (by decide))
  rw [formatI, code_signField, code_endianField, code_widthField, ← hopc, ← hhigh]
  simp only [BitVec.extractLsb'_append_extractLsb'_eq_extractLsb']
  exact BitVec.extractLsb'_eq_self

theorem word_eq_append_fields (w : CmdWord) :
    w.extractLsb' 13 19 ++ (w.extractLsb' 12 1 ++ (w.extractLsb' 8 4 ++ w.extractLsb' 0 8)) = w := by
  simp only [BitVec.extractLsb'_append_extractLsb'_eq_extractLsb']
  exact BitVec.extractLsb'_eq_self

/-- A format M word is its match outside the one operand bit, which the mask leaves out. -/
theorem formatM_of_match {opc : Byte} {w : CmdWord} (hw : w &&& 0xFFFFEFFF#32 = formatZ opc) :
    formatM opc (layoutField w) = w := by
  have hopc : w.extractLsb' 0 8 = opc := (field_of_masked hw (by decide)).trans (opcode_of_formatZ opc)
  have hlow : w.extractLsb' 8 4 = 0#4 := (field_of_masked hw (by decide)).trans (formatZ_reserved opc (by decide))
  have hhigh : w.extractLsb' 13 19 = 0#19 := (field_of_masked hw (by decide)).trans (formatZ_reserved opc (by decide))
  rw [formatM, code_layoutField, ← hopc, ← hlow, ← hhigh]
  exact word_eq_append_fields w

theorem eq_of_full_match {w m : CmdWord} (hw : w &&& 0xFFFFFFFF#32 = m) : m = w :=
  hw.symm.trans BitVec.and_allOnes

/-- The word of what a row reads from a matching word is that word: rows 0 and 1 are of format I, rows 6 and
7 of format M, the others of format Z. -/
theorem encode_operands {row : OpcodeRow} (hmem : row ∈ opcodeTable) {w : CmdWord} :
    w &&& row.mask = row.matchWord → encode (row.operands w) = w := by
  fin_cases hmem
  iterate 2 exact fun hw => formatI_of_match hw
  iterate 4 exact eq_of_full_match
  iterate 2 exact fun hw => formatM_of_match hw
  all_goals exact eq_of_full_match

/-- Settles O3: a word that decodes matches a row, which fixes the bits outside its operand fields. -/
theorem wordOfDecodedInstruction : Obligations.WordOfDecodedInstruction := by
  intro w i h
  obtain ⟨row, hmem, hw, rfl⟩ := exists_row_operands_of_decode h
  exact encode_operands hmem hw

/-! ### Rows and illegal words -/

/-- Settles O4: a word that matches two rows has the OPC of both, and no two rows have one OPC. -/
theorem opcodeRowsDisjoint : Obligations.OpcodeRowsDisjoint := by
  refine List.Pairwise.imp_of_mem (fun ha hb hne w => ?_) (List.pairwise_map.1 opcodeTable_nodup)
  rintro ⟨hwa, hwb⟩
  exact hne ((opcodeOf_eq_of_match ha hwa).symm.trans (opcodeOf_eq_of_match hb hwb))

theorem word_ext_fields {u v : CmdWord} (hopc : u.extractLsb' 0 8 = v.extractLsb' 0 8)
    (hlow : u.extractLsb' 8 4 = v.extractLsb' 8 4) (hlayout : u.extractLsb' 12 1 = v.extractLsb' 12 1)
    (hhigh : u.extractLsb' 13 19 = v.extractLsb' 13 19) : u = v := by
  rw [← word_eq_append_fields u, ← word_eq_append_fields v, hopc, hlow, hlayout, hhigh]

theorem field_masked_eq_zero {w mask : CmdWord} {lo n : Nat}
    (h : w.extractLsb' lo n = 0 ∨ mask.extractLsb' lo n = 0) : (w &&& mask).extractLsb' lo n = 0 := by
  rw [BitVec.extractLsb'_and]
  rcases h with h | h <;> simp [h]

/-- Above OPC the match of a row is 0, and the row masks out the operand fields of its format (R71, R73). -/
theorem opcodeTable_admits : ∀ row ∈ opcodeTable,
    row.matchWord.extractLsb' 8 4 = 0 ∧ row.matchWord.extractLsb' 12 1 = 0 ∧ row.matchWord.extractLsb' 13 19 = 0 ∧
    ((opcodeOf row.matchWord).toNat ∈ [0x01, 0x02] → row.mask.extractLsb' 8 4 = 0) ∧
    ((opcodeOf row.matchWord).toNat ∈ [0x07, 0x08] → row.mask.extractLsb' 12 1 = 0) := by
  decide

theorem opcodeOf_toNat (w : CmdWord) : (opcodeOf w).toNat = w.toNat % 256 := by
  rw [opcodeOf, toNat_field, pow_zero, Nat.div_one]
  rfl

theorem field_eq_zero_iff (w : CmdWord) (lo n : Nat) : w.extractLsb' lo n = 0 ↔ w.toNat / 2 ^ lo % 2 ^ n = 0 := by
  rw [← toNat_field, ← BitVec.toNat_inj]
  rfl

/-- R74 is complete: a word it does not list matches the row of its OPC. -/
theorem exists_match_of_not_illegalWord {w : CmdWord} (h : ¬ illegalWord w) :
    ∃ row ∈ opcodeTable, w &&& row.mask = row.matchWord := by
  simp only [illegalWord, not_or, not_and, not_not] at h
  obtain ⟨hopc, hhigh, hlow, hlayout⟩ := h
  rw [← opcodeOf_toNat, opcodes_eq_map_opcodeTable] at hopc
  obtain ⟨row, hmem, hopc⟩ := List.mem_map.1 hopc
  obtain ⟨hmatchLow, hmatchLayout, hmatchHigh, hmaskLow, hmaskLayout⟩ := opcodeTable_admits row hmem
  obtain ⟨hopcMask, _⟩ := opcodeTable_reserves row hmem
  rw [hopc, opcodeOf_toNat] at hmaskLow hmaskLayout
  refine ⟨row, hmem, word_ext_fields ?_ ?_ ?_ ?_⟩
  · exact (field_of_masked rfl hopcMask).symm.trans (BitVec.eq_of_toNat_eq hopc.symm)
  · refine (field_masked_eq_zero (or_iff_not_imp_left.2 fun hne => hmaskLow (hlow ?_))).trans hmatchLow.symm
    exact mt (field_eq_zero_iff w 8 4).2 hne
  · refine (field_masked_eq_zero (or_iff_not_imp_left.2 fun hne => hmaskLayout (hlayout ?_))).trans hmatchLayout.symm
    exact mt (field_eq_zero_iff w 12 1).2 hne
  · refine (field_masked_eq_zero (.inl ((field_eq_zero_iff ..).2 ?_))).trans hmatchHigh.symm
    rw [hhigh, Nat.zero_mod]

/-- R74: the illegal words are those that decode to no instruction. -/
theorem illegalWord_iff (w : CmdWord) : illegalWord w ↔ ∀ i, decode w ≠ .ok i := by
  refine ⟨fun h i hd => not_illegalWord_of_decode hd h, fun h => ?_⟩
  by_contra hlegal
  obtain ⟨row, hmem, hw⟩ := exists_match_of_not_illegalWord hlegal
  exact h _ (decode_of_match hmem hw)

/-- Settles O5: R74 lists the words that match no row, and the step performs the Issue, which marks STATUS only. -/
theorem illegalWordOnlyMarksStatus : Obligations.IllegalWordOnlyMarksStatus := by
  refine fun w => ⟨illegalWord_iff w, fun h s rest hp => ⟨?_, rfl⟩⟩
  rw [step_eq_performAction hp, performAction_issue, issue_of_illegalWord _ h]
  rfl

/-- Settles O1: each word is computed by the decoder. -/
theorem specWordsDecode : Obligations.SpecWordsDecode :=
  ⟨rfl, rfl, rfl, rfl, rfl, rfl, rfl⟩

end Sys2Proof.Machine

/-! SUPPORT. The statements of 40_primitive_codec. The two byte orders are base 256 read from either end, so bytes and
integer determine each other; readInt and writeInt add to that the choice of a representative modulo 2^(8w), and the
commands move those bytes between the buffers and the registers. -/

namespace Sys2Proof.Machine

open Sys2Proof.Claims

/-! ### Byte order -/

@[simp] theorem leNat_nil : leNat [] = 0 := rfl

@[simp] theorem leNat_cons (b : Byte) (bs : List Byte) : leNat (b :: bs) = b.toNat + 256 * leNat bs := rfl

@[simp] theorem leBytes_zero (u : Nat) : leBytes u 0 = [] := rfl

@[simp] theorem leBytes_succ (u w : Nat) :
    leBytes u (w + 1) = BitVec.ofNat 8 (u % 256) :: leBytes (u / 256) w := rfl

theorem leNat_lt (b : List Byte) : leNat b < 256 ^ b.length := by
  induction b with
  | nil => decide
  | cons x rest ih =>
    have hx := x.isLt
    rw [leNat_cons, List.length_cons, pow_succ]
    omega

theorem leNat_append (a b : List Byte) : leNat (a ++ b) = leNat a + 256 ^ a.length * leNat b := by
  induction a with
  | nil => simp
  | cons x rest ih => simp only [List.cons_append, leNat_cons, ih, List.length_cons]; ring

theorem beNat_cons (b : Byte) (bs : List Byte) : beNat (b :: bs) = b.toNat * 256 ^ bs.length + beNat bs := by
  simp only [beNat, List.reverse_cons, leNat_append, List.length_reverse, leNat_cons, leNat_nil]
  ring

/-- The little-endian integer is the sum of R100. -/
theorem leNat_eq_sum (b : List Byte) : leNat b = ∑ i : Fin b.length, b[i].toNat * 256 ^ i.val := by
  induction b with
  | nil => rfl
  | cons x rest ih =>
    rw [leNat_cons, ih, Finset.mul_sum]
    refine (congrArg₂ (· + ·) (by simp) (Finset.sum_congr rfl fun i _ => ?_)).trans (Fin.sum_univ_succ _).symm
    simp [pow_succ]
    ring

/-- The big-endian integer is the sum of R100. -/
theorem beNat_eq_sum (b : List Byte) :
    beNat b = ∑ i : Fin b.length, b[i].toNat * 256 ^ (b.length - 1 - i.val) := by
  induction b with
  | nil => rfl
  | cons x rest ih =>
    rw [beNat_cons, ih]
    refine (congrArg₂ (· + ·) (by simp) (Finset.sum_congr rfl fun i _ => ?_)).trans (Fin.sum_univ_succ _).symm
    simp [Nat.sub_sub, Nat.add_comm]

theorem leBytes_leNat (b : List Byte) : leBytes (leNat b) b.length = b := by
  induction b with
  | nil => rfl
  | cons x rest ih =>
    have hx := x.isLt
    have hlow : (x.toNat + 256 * leNat rest) % 256 = x.toNat := by omega
    have hhigh : (x.toNat + 256 * leNat rest) / 256 = leNat rest := by omega
    rw [leNat_cons, List.length_cons, leBytes_succ, hlow, hhigh, ih, BitVec.ofNat_toNat, BitVec.setWidth_eq]

theorem beBytes_beNat (b : List Byte) : beBytes (beNat b) b.length = b := by
  rw [beBytes, beNat, ← List.length_reverse, leBytes_leNat, List.reverse_reverse]

theorem leNat_leBytes (u w : Nat) : leNat (leBytes u w) = u % 256 ^ w := by
  induction w generalizing u with
  | zero => simp [Nat.mod_one]
  | succ w ih =>
    have hdigit : (BitVec.ofNat 8 (u % 256)).toNat = u % 256 := toNat_ofNat_of_lt (Nat.mod_lt u (by decide))
    rw [leBytes_succ, leNat_cons, ih, hdigit, pow_succ', Nat.mod_mul]

theorem beNat_beBytes (u w : Nat) : beNat (beBytes u w) = u % 256 ^ w := by
  rw [beNat, beBytes, List.reverse_reverse, leNat_leBytes]

/-- Digit `i` of `u` in base 256. -/
theorem leBytes_getElem? (u : Nat) {w i : Nat} (hi : i < w) :
    (leBytes u w)[i]? = some (BitVec.ofNat 8 (u / 256 ^ i % 256)) := by
  induction w generalizing u i with
  | zero => omega
  | succ w ih =>
    cases i with
    | zero => simp
    | succ i => rw [leBytes_succ, List.getElem?_cons_succ, ih _ (by omega), Nat.div_div_eq_div_mul, pow_succ']

theorem beBytes_getElem? (u : Nat) {w i : Nat} (hi : i < w) :
    (beBytes u w)[i]? = some (BitVec.ofNat 8 (u / 256 ^ (w - 1 - i) % 256)) := by
  rw [beBytes, List.getElem?_reverse (by simpa using hi), leBytes_length, leBytes_getElem? u (by omega)]

/-- Settles O15: both orders are base 256, read from the first byte or from the last. -/
theorem byteOrderFormulas : Obligations.ByteOrderFormulas := by
  refine ⟨fun b => ⟨leNat_eq_sum b, beNat_eq_sum b, leBytes_leNat b, beBytes_beNat b⟩, fun u w hu => ?_⟩
  refine ⟨leBytes_length u w, beBytes_length u w, fun i => leBytes_getElem? u, fun i => beBytes_getElem? u, ?_, ?_⟩
  · rw [leNat_leBytes, Nat.mod_eq_of_lt hu]
  · rw [beNat_beBytes, Nat.mod_eq_of_lt hu]

/-! ### Either byte order -/

theorem two_pow_eight_mul (w : Nat) : 2 ^ (8 * w) = 256 ^ w := pow_mul 2 8 w

theorem natOfBytes_lt (e : Endian) (b : List Byte) : natOfBytes e b < 2 ^ (8 * b.length) := by
  rw [two_pow_eight_mul]
  cases e with
  | little => exact leNat_lt b
  | big => exact List.length_reverse (as := b) ▸ leNat_lt b.reverse

theorem bytesOfNat_natOfBytes (e : Endian) (b : List Byte) : bytesOfNat e (natOfBytes e b) b.length = b := by
  cases e with
  | little => exact leBytes_leNat b
  | big => exact beBytes_beNat b

theorem natOfBytes_bytesOfNat (e : Endian) (u w : Nat) : natOfBytes e (bytesOfNat e u w) = u % 2 ^ (8 * w) := by
  rw [two_pow_eight_mul]
  cases e with
  | little => exact leNat_leBytes u w
  | big => exact beNat_beBytes u w

/-- The `w` bytes of an integer depend on it modulo 2^(8w) only. -/
theorem bytesOfNat_mod (e : Endian) (u w : Nat) : bytesOfNat e (u % 2 ^ (8 * w)) w = bytesOfNat e u w := by
  have h := bytesOfNat_natOfBytes e (bytesOfNat e u w)
  rwa [natOfBytes_bytesOfNat, bytesOfNat_length] at h

/-- Byte `k` of a bit vector, least significant first, is its digit `k` in base 256. -/
theorem extractLsb'_byte {n : Nat} (v : BitVec n) (k : Nat) :
    v.extractLsb' (8 * k) 8 = BitVec.ofNat 8 (v.toNat / 256 ^ k % 256) := by
  apply BitVec.eq_of_toNat_eq
  rw [BitVec.extractLsb'_toNat, Nat.shiftRight_eq_div_pow, two_pow_eight_mul, BitVec.toNat_ofNat, Nat.mod_mod]

/-- In little-endian order byte `k` of a bit vector stands at index `k`. -/
theorem leBytes_getElem?_byte {n : Nat} (v : BitVec n) {w k : Nat} (hk : k < w) :
    (leBytes v.toNat w)[k]? = some (v.extractLsb' (8 * k) 8) := by
  rw [leBytes_getElem? _ hk, extractLsb'_byte]

/-- In big-endian order byte `k` of a bit vector stands at index `k` from the end. -/
theorem beBytes_getElem?_byte {n : Nat} (v : BitVec n) {w k : Nat} (hk : k < w) :
    (beBytes v.toNat w)[w - 1 - k]? = some (v.extractLsb' (8 * k) 8) := by
  have hk' : w - 1 - (w - 1 - k) = k := by omega
  rw [beBytes_getElem? _ (by omega), hk', extractLsb'_byte]

/-- A bit vector wide enough for the little-endian integer of some bytes holds them as its bytes. -/
theorem extractLsb'_ofNat_leNat {n : Nat} {b : List Byte} (h : leNat b < 2 ^ n) {k : Nat} (hk : k < b.length) :
    (BitVec.ofNat n (leNat b)).extractLsb' (8 * k) 8 = b[k] := by
  have hbyte := leBytes_getElem?_byte (BitVec.ofNat n (leNat b)) hk
  rw [toNat_ofNat_of_lt h, leBytes_leNat, List.getElem?_eq_getElem hk] at hbyte
  exact (Option.some.inj hbyte).symm

/-! ### readInt and writeInt -/

theorem widthBytes_pos (w : Width) : 0 < widthBytes w := by cases w <;> decide

theorem widthBytes_le (w : Width) : widthBytes w ≤ 8 := by cases w <;> decide

/-- The two halves of the range of `w` bytes (R101). -/
theorem two_pow_eight_mul_eq_double {w : Nat} (hw : 0 < w) : (2 : Int) ^ (8 * w) = 2 * 2 ^ (8 * w - 1) := by
  rw [← pow_succ']
  congr 1
  omega

theorem intFits_unsigned_iff (v : Int) (w : Nat) : intFits v w .unsigned = true ↔ 0 ≤ v ∧ v < 2 ^ (8 * w) := by
  simp [intFits]

theorem intFits_signed_iff (v : Int) (w : Nat) :
    intFits v w .signed = true ↔ -(2 ^ (8 * w - 1)) ≤ v ∧ v < 2 ^ (8 * w - 1) := by
  simp [intFits]

theorem readInt_unsigned (b : List Byte) (e : Endian) : readInt b e .unsigned = natOfBytes e b := rfl

theorem readInt_signed_of_lt {b : List Byte} {e : Endian} (h : natOfBytes e b < 2 ^ (8 * b.length - 1)) :
    readInt b e .signed = natOfBytes e b := if_neg (by omega)

theorem readInt_signed_of_le {b : List Byte} {e : Endian} (h : 2 ^ (8 * b.length - 1) ≤ natOfBytes e b) :
    readInt b e .signed = (natOfBytes e b : Int) - 2 ^ (8 * b.length) := if_pos h

/-- readInt stays in the range of its width and sign (R101). -/
theorem intFits_readInt {b : List Byte} (hb : 0 < b.length) (e : Endian) (sg : Sign) :
    intFits (readInt b e sg) b.length sg = true := by
  have hlt : (natOfBytes e b : Int) < 2 ^ (8 * b.length) := mod_cast natOfBytes_lt e b
  cases sg with
  | unsigned => exact (intFits_unsigned_iff _ _).2 ⟨Int.natCast_nonneg _, hlt⟩
  | signed =>
    rw [intFits_signed_iff]
    have hd := two_pow_eight_mul_eq_double hb
    rcases Nat.lt_or_ge (natOfBytes e b) (2 ^ (8 * b.length - 1)) with h | h
    · have hz : (natOfBytes e b : Int) < 2 ^ (8 * b.length - 1) := mod_cast h
      rw [readInt_signed_of_lt h]
      omega
    · have hz : (2 : Int) ^ (8 * b.length - 1) ≤ natOfBytes e b := mod_cast h
      rw [readInt_signed_of_le h]
      omega

/-- readInt gives a representative of the integer of the bytes modulo 2^(8w). -/
theorem readInt_emod (b : List Byte) (e : Endian) (sg : Sign) :
    readInt b e sg % 2 ^ (8 * b.length) = natOfBytes e b := by
  have hmod : (natOfBytes e b : Int) % 2 ^ (8 * b.length) = natOfBytes e b :=
    Int.emod_eq_of_lt (Int.natCast_nonneg _) (mod_cast natOfBytes_lt e b)
  cases sg with
  | unsigned => exact hmod
  | signed =>
    rcases Nat.lt_or_ge (natOfBytes e b) (2 ^ (8 * b.length - 1)) with h | h
    · rw [readInt_signed_of_lt h, hmod]
    · rw [readInt_signed_of_le h, Int.sub_emod_right, hmod]

/-- A residue modulo 2^(8w) has one representative that fits `w` bytes under a given sign. -/
theorem eq_of_intFits_of_emod_eq {u v : Int} {w : Nat} {sg : Sign} (hw : 0 < w) (hu : intFits u w sg = true)
    (hv : intFits v w sg = true) (h : u % 2 ^ (8 * w) = v % 2 ^ (8 * w)) : u = v := by
  have habs : |u - v| < 2 ^ (8 * w) := by
    rw [abs_lt]
    cases sg with
    | unsigned => rw [intFits_unsigned_iff] at hu hv; omega
    | signed =>
      rw [intFits_signed_iff] at hu hv
      have hd := two_pow_eight_mul_eq_double hw
      omega
  exact Int.sub_eq_zero.1 (Int.eq_zero_of_abs_lt_dvd (Int.ModEq.dvd h.symm) habs)

theorem writeInt_of_fits {v : Int} {w : Nat} {sg : Sign} (e : Endian) (h : intFits v w sg = true) :
    writeInt v w e sg = .ok (bytesOfNat e (v % 2 ^ (8 * w)).toNat w) := if_pos h

theorem writeInt_of_not_fits {v : Int} {w : Nat} {sg : Sign} (e : Endian) (h : ¬ intFits v w sg = true) :
    writeInt v w e sg = .error .valueOutOfRange := if_neg h

theorem writeInt_eq_ok {v : Int} {w : Nat} {e : Endian} {sg : Sign} {b : List Byte} (h : writeInt v w e sg = .ok b) :
    intFits v w sg = true ∧ b = bytesOfNat e (v % 2 ^ (8 * w)).toNat w := by
  rcases writeInt_cases v w e sg with ⟨hf, h'⟩ | ⟨-, h'⟩ <;> rw [h] at h' <;> cases h'
  exact ⟨hf, rfl⟩

/-- The integer of the bytes writeInt gives is the value modulo 2^(8w) (R102). -/
theorem natOfBytes_writeInt {v : Int} {w : Nat} {e : Endian} {sg : Sign} {b : List Byte}
    (h : writeInt v w e sg = .ok b) : (natOfBytes e b : Int) = v % 2 ^ (8 * w) := by
  have hpos : (0 : Int) < 2 ^ (8 * w) := by positivity
  obtain ⟨-, rfl⟩ := writeInt_eq_ok h
  rw [natOfBytes_bytesOfNat, Int.natCast_mod, Int.toNat_of_nonneg (Int.emod_nonneg _ hpos.ne')]
  push_cast
  exact Int.emod_emod ..

/-- Settles O16: both signs read a representative of the bytes' integer that fits the width. -/
theorem readIntValue : Obligations.ReadIntValue := by
  intro b e hb
  have hpos : 0 < b.length := (by decide : ∀ n ∈ [1, 2, 4, 8], 0 < n) _ hb
  obtain ⟨hnonneg, hlt⟩ := (intFits_unsigned_iff _ _).1 (intFits_readInt hpos e .unsigned)
  obtain ⟨hslow, hshigh⟩ := (intFits_signed_iff _ _).1 (intFits_readInt hpos e .signed)
  exact ⟨readInt_unsigned b e, hnonneg, hlt, readInt_signed_of_lt, readInt_signed_of_le, hslow, hshigh⟩

/-- What writeInt gives for a value that fits. -/
theorem exists_writeInt_of_fits {v : Int} {w : Nat} {sg : Sign} (e : Endian) (h : intFits v w sg = true) :
    ∃ b, writeInt v w e sg = .ok b ∧ b.length = w ∧ (natOfBytes e b : Int) = v % 2 ^ (8 * w) :=
  have hw := writeInt_of_fits e h
  ⟨_, hw, writeInt_length hw, natOfBytes_writeInt hw⟩

/-- Settles O17: writeInt tests that the value fits, under either sign. -/
theorem writeIntFitsExactly : Obligations.WriteIntFitsExactly := by
  intro v w e
  simp only [← intFits_unsigned_iff, ← intFits_signed_iff]
  exact ⟨exists_writeInt_of_fits e, writeInt_of_not_fits e, exists_writeInt_of_fits e, writeInt_of_not_fits e⟩

/-- Settles O18: what is written and what is read back fit the width and agree modulo 2^(8w); what is read fits, and its
bytes are those of its residue. -/
theorem integerRoundTrip : Obligations.IntegerRoundTrip := by
  refine ⟨fun v w e sg b h => ?_, fun w e sg b hb => ?_⟩
  · obtain ⟨hfits, -⟩ := writeInt_eq_ok h
    have hw := widthBytes_pos w
    have hlen := writeInt_length h
    have hval := natOfBytes_writeInt h
    rw [← hlen] at hw hfits hval
    exact eq_of_intFits_of_emod_eq hw (intFits_readInt hw e sg) hfits ((readInt_emod b e sg).trans hval)
  · have hw := widthBytes_pos w
    rw [← hb] at hw ⊢
    rw [writeInt_of_fits e (intFits_readInt hw e sg), readInt_emod, Int.toNat_natCast, bytesOfNat_natOfBytes]

/-! ### RDINT and WRINT -/

theorem natOfBytes_lt_word (e : Endian) {b : List Byte} (hb : b.length ≤ 8) : natOfBytes e b < 2 ^ 64 :=
  (natOfBytes_lt e b).trans_le (Nat.pow_le_pow_right (by decide) (by omega))

/-- RES holds an unsigned integer of up to 8 bytes as it is (R104). -/
theorem toNat_ofInt_readInt_unsigned (e : Endian) {b : List Byte} (hb : b.length ≤ 8) :
    (BitVec.ofInt 64 (readInt b e .unsigned)).toNat = natOfBytes e b := by
  rw [readInt_unsigned, BitVec.ofInt_natCast, toNat_ofNat_of_lt (natOfBytes_lt_word e hb)]

/-- RES holds a signed integer of up to 8 bytes in two's complement (R104). -/
theorem toInt_ofInt_readInt_signed (e : Endian) {b : List Byte} (hpos : 0 < b.length) (hb : b.length ≤ 8) :
    (BitVec.ofInt 64 (readInt b e .signed)).toInt = readInt b e .signed := by
  obtain ⟨hlow, hhigh⟩ := (intFits_signed_iff _ _).1 (intFits_readInt hpos e .signed)
  have hle : (2 : Int) ^ (8 * b.length - 1) ≤ 2 ^ 63 := pow_le_pow_right₀ (by decide) (by omega)
  exact BitVec.toInt_ofInt_eq_self (by decide) (by omega) (by omega)

/-- Settles O19: the span decides, and RES is wide enough for the integer of its bytes. -/
theorem rdintReadsInteger : Obligations.RdintReadsInteger := by
  intro s w e sg
  have hw := widthBytes_le w
  obtain ⟨t, ht⟩ := exec_completes (.rdint w e sg) s
  rcases execRdint_cases ht with ⟨hb, rfl⟩ | ⟨hb, rfl⟩
  · refine ⟨fun _ => ⟨_, ht, ?_, ?_, toNat_ofNat_of_lt (by omega), rfl⟩, fun h => absurd hb (by omega)⟩
    · rintro rfl
      exact toNat_ofInt_readInt_unsigned e (by simpa using hw)
    · rintro rfl
      exact toInt_ofInt_readInt_signed e (by simpa using widthBytes_pos w) (by simpa using hw)
  · exact ⟨fun h => absurd hb (by omega), fun _ => ht⟩

/-- A completed write leaves its bytes in OBUF, and nothing specified beyond them (R36). -/
theorem succeed_memWrite_obufAt (s : State) (v : List Byte) (a : Nat) : (succeed (s.memWrite v)).obufAt a = v[a]? :=
  memWrite_obufAt s v a

theorem succeed_memWrite_obufAt_of_le (s : State) (v : List Byte) {a : Nat} (h : v.length ≤ a) :
    (succeed (s.memWrite v)).obufAt a = none := by
  rw [succeed_memWrite_obufAt, List.getElem?_eq_none h]

/-- VAL is the same modulo 2^(8w) whichever sign it is read with (R105). -/
theorem valueOperand_emod (sg : Sign) (v : Word) {w : Nat} (hw : w ≤ 8) :
    (valueOperand sg v % 2 ^ (8 * w)).toNat = v.toNat % 2 ^ (8 * w) := by
  have hcast : ((v.toNat : Int) % 2 ^ (8 * w)).toNat = v.toNat % 2 ^ (8 * w) := by norm_cast
  cases sg with
  | unsigned => exact hcast
  | signed =>
    have hdvd : (2 : Int) ^ (8 * w) ∣ 2 ^ 64 := pow_dvd_pow 2 (by omega)
    have hemod : v.toInt % 2 ^ 64 = (v.toNat : Int) % 2 ^ 64 := by
      rw [BitVec.toInt_eq_toNat_bmod]
      exact Int.bmod_emod
    rw [← hcast, valueOperand, ← Int.emod_emod_of_dvd _ hdvd, hemod, Int.emod_emod_of_dvd _ hdvd]

/-- The bytes WRINT writes are the low bytes of VAL (R105). -/
theorem writeInt_valueOperand {sg : Sign} {v : Word} {w : Nat} {e : Endian} {b : List Byte} (hw : w ≤ 8)
    (h : writeInt (valueOperand sg v) w e sg = .ok b) : b = bytesOfNat e v.toNat w := by
  obtain ⟨-, rfl⟩ := writeInt_eq_ok h
  rw [valueOperand_emod sg v hw, bytesOfNat_mod]

/-- Settles O20: the test that VAL fits decides, and the bytes written are those of VAL whichever the sign. -/
theorem wrintWritesInteger : Obligations.WrintWritesInteger := by
  intro s w e sg v hv fits hfits
  have hv' : v = valueOperand sg s.val := by cases sg <;> exact hv
  have hfits' : fits ↔ intFits v (widthBytes w) sg = true := by
    rw [hfits]
    cases sg with
    | unsigned => rw [intFits_unsigned_iff, hv]; exact (and_iff_right (Int.natCast_nonneg _)).symm
    | signed => exact (intFits_signed_iff _ _).symm
  obtain ⟨t, ht⟩ := exec_completes (.wrint w e sg) s
  rcases execWrint_cases ht with ⟨b, hb, rfl⟩ | ⟨hn, rfl⟩
  · obtain rfl := writeInt_valueOperand (widthBytes_le w) hb
    refine ⟨fun _ => ⟨_, ht, bytesOfNat_length .., fun k hk => ?_, fun a ha => ?_, rfl⟩, fun h => ?_⟩
    · rw [succeed_memWrite_obufAt]
      cases e with
      | little => exact leBytes_getElem?_byte s.val hk
      | big => exact beBytes_getElem?_byte s.val hk
    · exact succeed_memWrite_obufAt_of_le _ _ (by simpa using ha)
    · exact absurd (hfits'.2 (hv' ▸ (writeInt_eq_ok hb).1)) h
  · refine ⟨fun h => ?_, fun _ => ht⟩
    rw [hfits', hv', hn] at h
    cases h

/-! ### Float patterns -/

/-- Settles O23: both functions keep the four bytes as they are, least significant first. -/
theorem floatPatternRoundTrip : Obligations.FloatPatternRoundTrip := by
  refine ⟨fun b hb => ?_, fun p hp => ?_⟩
  · rw [readFloat32LE, writeFloat32LE, ← hb, leBytes_leNat]
  · rw [readFloat32LE, writeFloat32LE, leNat_leBytes]
    exact Nat.mod_eq_of_lt hp

/-- Settles O21: RES holds the integer of the four bytes, whose digits in base 256 they are. -/
theorem rdf32leCopiesPattern : Obligations.Rdf32leCopiesPattern := by
  intro s
  obtain ⟨t, ht⟩ := exec_completes .rdf32le s
  rcases execRdf32le_cases ht with ⟨hb, rfl⟩ | ⟨hb, rfl⟩
  · have hlen := memRead_length s s.off.toNat 4
    have hlt : leNat (s.memRead s.off.toNat 4) < 2 ^ 32 := hlen ▸ natOfBytes_lt .little (s.memRead s.off.toNat 4)
    have hword : leNat (s.memRead s.off.toNat 4) < 2 ^ 64 := by omega
    refine ⟨fun _ => ⟨_, ht, fun k hk => ?_, ?_, rfl, rfl⟩, fun h => absurd hb (by omega)⟩
    · exact (extractLsb'_ofNat_leNat hword (hlen.symm ▸ hk)).trans (memRead_getElem ..)
    · apply BitVec.eq_of_toNat_eq
      rw [succeed_res, readFloat32LE, BitVec.extractLsb'_toNat, Nat.shiftRight_eq_div_pow, toNat_ofNat_of_lt hword,
        Nat.div_eq_of_lt hlt]
      rfl
  · exact ⟨fun h => absurd hb (by omega), fun _ => ht⟩

/-- Settles O22: the bound on VAL decides, and the four bytes are the low bytes of VAL in little-endian order. -/
theorem wrf32leWritesPattern : Obligations.Wrf32leWritesPattern := by
  intro s
  obtain ⟨t, ht⟩ := exec_completes .wrf32le s
  rcases execWrf32le_cases ht with ⟨hb, rfl⟩ | ⟨hb, rfl⟩
  · refine ⟨fun _ => ⟨_, ht, writeFloat32LE_length _, fun k hk => ?_, fun a ha => ?_, rfl⟩, fun h => ?_⟩
    · rw [succeed_memWrite_obufAt]
      exact leBytes_getElem?_byte s.val hk
    · exact succeed_memWrite_obufAt_of_le _ _ (by simpa using ha)
    · omega
  · exact ⟨fun h => absurd hb (by omega), fun _ => ht⟩

/-! ### What a float pattern denotes -/

theorem getLsbD_eq_decide (p : CmdWord) (i : Nat) : p.getLsbD i = decide (p.toNat / 2 ^ i % 2 = 1) := by
  rw [← BitVec.testBit_toNat, Nat.testBit_eq_decide_div_mod_eq]

/-- The datum of a pattern put together from its three fields, case by case (R106). -/
theorem floatDatum_of_fields {p : CmdWord} {s e f : Nat} (hs : s < 2) (he : e < 256) (hf : f < 2 ^ 23)
    (hp : p.toNat = 2 ^ 31 * s + 2 ^ 23 * e + f) :
    floatDatum p =
      if e = 0 then .finite (decide (s = 1)) f (-149)
      else if e = 255 then if f = 0 then .infinity (decide (s = 1)) else .nan (decide (2 ^ 22 ≤ f))
      else .finite (decide (s = 1)) (2 ^ 23 + f) ((e : Int) - 150) := by
  have hsign : p.getLsbD 31 = decide (s = 1) := by rw [getLsbD_eq_decide]; congr 1; apply propext; omega
  have hexp : (p.extractLsb' 23 8).toNat = e := by rw [toNat_field]; omega
  have hfrac : (p.extractLsb' 0 23).toNat = f := by rw [toNat_field]; omega
  have hquiet : p.getLsbD 22 = decide (2 ^ 22 ≤ f) := by rw [getLsbD_eq_decide]; congr 1; apply propext; omega
  simp only [floatDatum, hsign, hexp, hfrac, hquiet]

/-- The significand of a normal number with its hidden bit, scaled by 2^(-23) (R106). -/
theorem normal_magnitude (e f : Nat) :
    ((2 ^ 23 + f : Nat) : Rat) * 2 ^ ((e : Int) - 150) = (1 + (f : Rat) / 2 ^ 23) * 2 ^ ((e : Int) - 127) := by
  have hexp : (e : Int) - 127 = 23 + ((e : Int) - 150) := by ring
  rw [hexp, zpow_add₀ (by norm_num)]
  push_cast
  field_simp
  ring

/-- Settles O24: the three fields of the pattern select the case of R106. -/
theorem floatDatumOfPattern : Obligations.FloatDatumOfPattern := by
  intro p s e f hs he hf hp
  rw [floatDatum_of_fields hs he hf hp]
  refine ⟨fun h => if_pos h, fun hlow hhigh => ?_, ?_, ?_⟩
  · exact ⟨2 ^ 23 + f, (e : Int) - 150, by rw [if_neg (by omega), if_neg (by omega)], normal_magnitude e f⟩
  · rintro rfl rfl
    rfl
  · rintro rfl hf0
    exact if_neg hf0

end Sys2Proof.Machine

/-! SUPPORT. The statements of 41_bcd_imei. Reading the nibbles of bytes and packing nibbles into bytes are inverse in
either order, and so are digits and characters, which gives the round trips; a read of the span then gives its nibbles
and digits as numbers by their index, which gives what the commands write. -/

namespace Sys2Proof.Machine

open Sys2Proof.Claims

/-! ### Digits and characters -/

@[simp] theorem digitOf_digitChar (d : Nibble) : digitOf (digitChar d) = d := by
  revert d
  decide

theorem digitChar_digitOf {c : Byte} (h : isDigitChar c = true) : digitChar (digitOf c) = c := by
  revert c
  decide

theorem isBcdDigit_digitOf {c : Byte} (h : isDigitChar c = true) : isBcdDigit (digitOf c) = true := by
  revert c
  decide

theorem isDigitChar_digitChar {d : Nibble} (h : isBcdDigit d = true) : isDigitChar (digitChar d) = true := by
  revert d
  decide

/-- A string of digit characters holds decimal nibbles. -/
theorem all_map_digitOf {str : List Byte} (h : str.all isDigitChar = true) :
    (str.map digitOf).all isBcdDigit = true := by
  simp only [List.all_map, List.all_eq_true] at h ⊢
  exact fun c hc => isBcdDigit_digitOf (h c hc)

/-- A string of digit characters is given back by the nibbles it holds. -/
theorem map_digitChar_map_digitOf {str : List Byte} (h : str.all isDigitChar = true) :
    (str.map digitOf).map digitChar = str := by
  rw [List.map_map]
  exact (List.map_congr_left fun c hc => digitChar_digitOf (List.all_eq_true.1 h c hc)).trans (List.map_id _)

theorem all_map_digitChar {d : List Nibble} (h : d.all isBcdDigit = true) :
    (d.map digitChar).all isDigitChar = true := by
  simp only [List.all_map, List.all_eq_true] at h ⊢
  exact fun x hx => isDigitChar_digitChar (h x hx)

theorem map_digitOf_map_digitChar (d : List Nibble) : (d.map digitChar).map digitOf = d := by
  simp [Function.comp_def]

/-- The string of a sequence of decimal nibbles: what BCD2STR and BCD2IMEI both give once their nibbles are read
(R121, R127, R128). -/
def nibblesToString (d : List Nibble) : Except ErrCode (List Byte) :=
  if d.all isBcdDigit then .ok (d.map digitChar) else .error .bcdNibbleError

theorem bcdDigitsToString_eq (b : List Byte) : bcdDigitsToString b = nibblesToString (nibblesPlain b) := rfl

theorem nibblesToString_of_all {d : List Nibble} (h : d.all isBcdDigit = true) :
    nibblesToString d = .ok (d.map digitChar) := if_pos h

theorem nibblesToString_eq_ok {d : List Nibble} {str : List Byte} (h : nibblesToString d = .ok str) :
    d.all isBcdDigit = true ∧ str = d.map digitChar := by
  unfold nibblesToString at h
  split at h <;> cases h
  exact ⟨‹_›, rfl⟩

theorem nibblesToString_of_not_all {d : List Nibble} (h : ¬ d.all isBcdDigit = true) :
    nibblesToString d = .error .bcdNibbleError := if_neg h

/-! ### The two orders of the nibbles in a byte

Both layouts of an IMEI, and the BCD digits of the plain one, are the same functions up to this order. -/

/-- The byte that holds two nibbles, the earlier one first. -/
def joinNibbles : ImeiLayout → Nibble → Nibble → Byte
  | .plain, x, y => x ++ y
  | .swapped, x, y => y ++ x

/-- The nibbles of a byte sequence in the order of a layout (R120, R127, R128). -/
def nibblesOf : ImeiLayout → List Byte → List Nibble
  | .plain => nibblesPlain
  | .swapped => nibblesSwapped

/-- Two nibbles a byte in the order of a layout (R122, R125, R126). -/
def packOf : ImeiLayout → List Nibble → List Byte
  | .plain => packPlain
  | .swapped => packSwapped

@[simp] theorem packOf_nil (m : ImeiLayout) : packOf m [] = [] := by cases m <;> rfl

@[simp] theorem packOf_cons_cons (m : ImeiLayout) (x y : Nibble) (d : List Nibble) :
    packOf m (x :: y :: d) = joinNibbles m x y :: packOf m d := by cases m <;> rfl

@[simp] theorem hiNibble_append (x y : Nibble) : hiNibble (x ++ y) = x := BitVec.extractLsb'_append_eq_left

@[simp] theorem loNibble_append (x y : Nibble) : loNibble (x ++ y) = y := BitVec.extractLsb'_append_eq_right

theorem hiNibble_append_loNibble (b : Byte) : hiNibble b ++ loNibble b = b := by
  revert b
  decide

@[simp] theorem nibblesOf_append (m : ImeiLayout) (a b : List Byte) :
    nibblesOf m (a ++ b) = nibblesOf m a ++ nibblesOf m b := by
  cases m <;> exact List.flatMap_append

@[simp] theorem nibblesOf_joinNibbles_cons (m : ImeiLayout) (x y : Nibble) (b : List Byte) :
    nibblesOf m (joinNibbles m x y :: b) = x :: y :: nibblesOf m b := by
  cases m <;> simp [nibblesOf, joinNibbles, nibblesPlain, nibblesSwapped]

/-- An even number of nibbles can be read back from the bytes they are packed in. -/
theorem nibblesOf_packOf (m : ImeiLayout) {d : List Nibble} (hd : d.length % 2 = 0) : nibblesOf m (packOf m d) = d := by
  induction d using packPlain.induct with
  | case1 x y rest ih =>
    simp only [List.length_cons] at hd
    rw [packOf_cons_cons, nibblesOf_joinNibbles_cons, ih (by omega)]
  | case2 d hshort =>
    match d, hshort with
    | [], _ => cases m <;> rfl
    | [_], _ => cases hd
    | x :: y :: rest, hshort => exact absurd rfl (hshort x y rest)

theorem packPlain_nibblesPlain (b : List Byte) : packPlain (nibblesPlain b) = b := by
  induction b with
  | nil => rfl
  | cons x rest ih =>
    show (hiNibble x ++ loNibble x) :: packPlain (nibblesPlain rest) = x :: rest
    rw [hiNibble_append_loNibble, ih]

/-! ### The functions of the codec, through `nibblesOf` and `packOf` -/

/-- The digit string left-padded with 0 to `2 * w` digits (R122). -/
def paddedDigits (str : List Byte) (w : Nat) : List Nibble :=
  List.replicate (2 * w - str.length) 0#4 ++ str.map digitOf

theorem paddedDigits_length {str : List Byte} {w : Nat} (h : str.length ≤ 2 * w) :
    (paddedDigits str w).length = 2 * w := by
  simp [paddedDigits, h]

theorem stringToBcdDigits_eq (str : List Byte) (w : Nat) :
    stringToBcdDigits str w = if str.all isDigitChar = true ∧ str.length ≤ 2 * w
      then .ok (packPlain (paddedDigits str w)) else .error .valueOutOfRange := by
  unfold stringToBcdDigits
  by_cases hdig : str.all isDigitChar = true
  · by_cases hlen : str.length ≤ 2 * w <;> simp [hdig, hlen, paddedDigits]
  · simp [hdig]

theorem stringToBcdDigits_eq_ok {str b : List Byte} {w : Nat} (h : stringToBcdDigits str w = .ok b) :
    str.all isDigitChar = true ∧ str.length ≤ 2 * w ∧ b = packPlain (paddedDigits str w) := by
  rw [stringToBcdDigits_eq] at h
  split at h <;> cases h
  rename_i hstr
  exact ⟨hstr.1, hstr.2, rfl⟩

/-- The sixteen nibbles of an IMEI of 15 digits: the pad of the layout is before or after them (R125, R126). -/
def withPad : ImeiLayout → List Nibble → List Nibble
  | .plain, d => 0#4 :: d
  | .swapped, d => d ++ [0xF#4]

@[simp] theorem withPad_length (m : ImeiLayout) (d : List Nibble) : (withPad m d).length = d.length + 1 := by
  cases m <;> simp [withPad]

/-- The strings that imeiToBcd takes (R125, R126). -/
def ImeiAccepted (m : ImeiLayout) (str : List Byte) : Prop :=
  (str.length = 15 ∨ str.length = 16) ∧ str.all isDigitChar = true ∧
    ¬ (m = .plain ∧ str.length = 16 ∧ str.head? = some 0x30#8)

/-- The nibbles of an IMEI string in either layout, in order (R125, R126). -/
def imeiNibbles (m : ImeiLayout) (str : List Byte) : List Nibble :=
  if str.length = 15 then withPad m (str.map digitOf) else str.map digitOf

theorem imeiNibbles_plain (str : List Byte) :
    imeiNibbles .plain str = (if str.length = 15 then [0#4] else []) ++ str.map digitOf := by
  unfold imeiNibbles
  split <;> rfl

theorem imeiNibbles_swapped (str : List Byte) :
    imeiNibbles .swapped str = str.map digitOf ++ (if str.length = 15 then [0xF#4] else []) := by
  unfold imeiNibbles
  split
  · rfl
  · rw [List.append_nil]

theorem imeiToBcd_of_accepted {m : ImeiLayout} {str : List Byte} (h : ImeiAccepted m str) :
    imeiToBcd m str = .ok (packOf m (imeiNibbles m str)) := by
  obtain ⟨hlen, hdig, hzero⟩ := h
  have hlen' : ¬ (str.length ≠ 15 ∧ str.length ≠ 16) := by omega
  have hdig' : ¬ (!str.all isDigitChar) = true := by simp [hdig]
  cases m with
  | plain =>
    have hzero' : ¬ (str.length = 16 ∧ str.head? = some 0x30#8) := fun h => hzero ⟨rfl, h⟩
    rw [imeiNibbles_plain, imeiToBcd, imeiToBcdPlain, if_neg hlen', if_neg hdig', if_neg hzero', packOf]
  | swapped => rw [imeiNibbles_swapped, imeiToBcd, imeiToBcdSwapped, if_neg hlen', if_neg hdig', packOf]

theorem accepted_of_imeiToBcd_eq_ok {m : ImeiLayout} {str b : List Byte} (h : imeiToBcd m str = .ok b) :
    ImeiAccepted m str := by
  cases m with
  | plain =>
    simp only [imeiToBcd, imeiToBcdPlain] at h
    split at h
    · cases h
    split at h
    · cases h
    split at h
    · cases h
    rename_i hlen hdig hzero
    exact ⟨by omega, by simpa using hdig, fun hbad => hzero hbad.2⟩
  | swapped =>
    simp only [imeiToBcd, imeiToBcdSwapped] at h
    split at h
    · cases h
    split at h
    · cases h
    rename_i hlen hdig
    exact ⟨by omega, by simpa using hdig, fun hbad => nomatch hbad.1⟩

theorem imeiToBcd_of_not_accepted {m : ImeiLayout} {str : List Byte} (h : ¬ ImeiAccepted m str) :
    imeiToBcd m str = .error .valueOutOfRange := by
  cases hr : imeiToBcd m str with
  | ok b => exact absurd (accepted_of_imeiToBcd_eq_ok hr) h
  | error e => rw [imeiToBcd_error hr]

theorem all_of_all_dropLast {d : List Nibble} {p : Nibble → Bool} (h : d.all p = true) : d.dropLast.all p = true :=
  List.all_eq_true.2 fun x hx => List.all_eq_true.1 h x (List.mem_of_mem_dropLast hx)

/-- The pad of the layout is dropped, and what remains must be digits (R127, R128). -/
theorem bcdToImei_of_padded {m : ImeiLayout} {b : List Byte} {d : List Nibble} (h : nibblesOf m b = withPad m d) :
    bcdToImei m b = nibblesToString d := by
  cases m with
  | plain =>
    have h' : nibblesPlain b = 0#4 :: d := h
    have hzero : isBcdDigit 0#4 = true := rfl
    cases hall : d.all isBcdDigit <;> simp [bcdToImei, bcdToImeiPlain, nibblesToString, h', hzero, hall]
  | swapped =>
    have h' : nibblesSwapped b = d ++ [0xF#4] := h
    cases hall : d.all isBcdDigit <;> simp [bcdToImei, bcdToImeiSwapped, nibblesToString, h', hall]

/-- Without the pad every nibble is a digit of the string (R127, R128). -/
theorem bcdToImei_of_unpadded {m : ImeiLayout} {b : List Byte} (h : ∀ d, nibblesOf m b ≠ withPad m d) :
    bcdToImei m b = nibblesToString (nibblesOf m b) := by
  cases m with
  | plain =>
    have hhead : (nibblesPlain b).head? ≠ some 0#4 := fun hd => h _ (List.eq_cons_of_mem_head? hd)
    cases hall : (nibblesPlain b).all isBcdDigit <;>
      simp [bcdToImei, bcdToImeiPlain, nibblesToString, nibblesOf, hhead, hall]
  | swapped =>
    have hlast : (nibblesSwapped b).getLast? ≠ some 0xF#4 := fun hd =>
      h _ (List.dropLast_append_getLast? _ hd).symm
    cases hall : (nibblesSwapped b).all isBcdDigit
    · simp [bcdToImei, bcdToImeiSwapped, nibblesToString, nibblesOf, hlast, hall]
    · simp [bcdToImei, bcdToImeiSwapped, nibblesToString, nibblesOf, hlast, hall, all_of_all_dropLast hall]

/-! ### The round trips -/

/-- Sixteen digits cannot be taken for fifteen and a pad: plain refuses a leading 0, and 0xF is no digit. -/
theorem imeiNibbles_ne_withPad {m : ImeiLayout} {str : List Byte} (h : ImeiAccepted m str) (h15 : str.length ≠ 15)
    (d : List Nibble) : imeiNibbles m str ≠ withPad m d := by
  obtain ⟨hlen, hdig, hzero⟩ := h
  rw [imeiNibbles, if_neg h15]
  intro heq
  cases m with
  | plain =>
    have hstr : str = 0x30#8 :: d.map digitChar := by
      rw [← map_digitChar_map_digitOf hdig, heq]
      rfl
    exact hzero ⟨rfl, hlen.resolve_left h15, by rw [hstr]; rfl⟩
  | swapped =>
    have hall := all_map_digitOf hdig
    simp [heq, withPad, isBcdDigit] at hall

theorem imeiNibbles_length {m : ImeiLayout} {str : List Byte} (h : str.length = 15 ∨ str.length = 16) :
    (imeiNibbles m str).length = 16 := by
  unfold imeiNibbles
  split
  · simpa
  · simpa using h.resolve_left ‹_›

/-- Settles O29: the nibbles of the string are read back from the bytes, and the pad tells the two lengths apart. -/
theorem imeiRoundTrip : Obligations.ImeiRoundTrip := by
  intro m str b h
  have hacc := accepted_of_imeiToBcd_eq_ok h
  refine ⟨imeiToBcd_length h, ?_⟩
  rw [imeiToBcd_of_accepted hacc] at h
  cases h
  obtain ⟨hlen, hdig, -⟩ := id hacc
  have hback := nibblesOf_packOf m (d := imeiNibbles m str) (by rw [imeiNibbles_length hlen])
  have hstr : nibblesToString (str.map digitOf) = .ok str := by
    rw [nibblesToString_of_all (all_map_digitOf hdig), map_digitChar_map_digitOf hdig]
  by_cases h15 : str.length = 15
  · rw [bcdToImei_of_padded (hback.trans (if_pos h15)), hstr]
  · have hne (d : List Nibble) := hback ▸ imeiNibbles_ne_withPad hacc h15 d
    rw [bcdToImei_of_unpadded hne, hback, imeiNibbles, if_neg h15, hstr]

theorem nibblesToString_paddedDigits {str : List Byte} (hdig : str.all isDigitChar = true) (w : Nat) :
    nibblesToString (paddedDigits str w) = .ok (List.replicate (2 * w - str.length) 0x30#8 ++ str) := by
  have hall : (paddedDigits str w).all isBcdDigit = true := by
    rw [paddedDigits, List.all_append, all_map_digitOf hdig, Bool.and_true, List.all_replicate]
    split <;> rfl
  rw [nibblesToString_of_all hall, paddedDigits, List.map_append, map_digitChar_map_digitOf hdig, List.map_replicate]
  rfl

/-- Settles O30: packing and reading nibbles are inverse, and so are digits and characters. -/
theorem bcdDigitsRoundTrip : Obligations.BcdDigitsRoundTrip := by
  refine ⟨fun str b w h => ?_, fun str b h => ?_⟩
  · obtain ⟨hdig, hlen, rfl⟩ := stringToBcdDigits_eq_ok h
    have hback := nibblesOf_packOf .plain (d := paddedDigits str w) (by rw [paddedDigits_length hlen]; omega)
    rw [bcdDigitsToString_eq, ← nibblesToString_paddedDigits hdig w]
    exact congrArg nibblesToString hback
  · obtain ⟨hall, rfl⟩ := nibblesToString_eq_ok h
    have hlen : ((nibblesPlain b).map digitChar).length = 2 * b.length := by simp
    rw [stringToBcdDigits_eq, if_pos ⟨all_map_digitChar hall, hlen.le⟩, paddedDigits, hlen, Nat.sub_self,
      List.replicate_zero, List.nil_append, map_digitOf_map_digitChar, packPlain_nibblesPlain]

/-! ### Nibbles as numbers -/

/-- The first `n` values of `d`, as nibbles: a digit string of the spec's rules, which give digit `p` by its index. -/
def nibbleList (n : Nat) (d : Nat → Nat) : List Nibble := (List.range n).map fun p => BitVec.ofNat 4 (d p)

theorem nibbleList_succ (n : Nat) (d : Nat → Nat) :
    nibbleList (n + 1) d = nibbleList n d ++ [BitVec.ofNat 4 (d n)] := by
  simp [nibbleList, List.range_succ]

theorem nibbleList_succ_eq_cons (n : Nat) (d : Nat → Nat) :
    nibbleList (n + 1) d = BitVec.ofNat 4 (d 0) :: nibbleList n fun p => d (p + 1) := by
  simp [nibbleList, List.range_succ_eq_map, Function.comp_def]

theorem nibbleList_add (k n : Nat) (d : Nat → Nat) :
    nibbleList (k + n) d = nibbleList k d ++ nibbleList n fun p => d (k + p) := by
  simp [nibbleList, List.range_add, Function.comp_def]

theorem nibbleList_congr {n : Nat} {d e : Nat → Nat} (h : ∀ p < n, d p = e p) : nibbleList n d = nibbleList n e :=
  List.map_congr_left fun p hp => by rw [h p (List.mem_range.1 hp)]

theorem all_nibbleList {n : Nat} {d : Nat → Nat} (hd : ∀ p < n, d p < 16) :
    (nibbleList n d).all isBcdDigit = true ↔ ∀ p < n, d p ≤ 9 := by
  simp only [nibbleList, List.all_map, List.all_eq_true, List.mem_range]
  refine forall₂_congr fun p hp => ?_
  simp [isBcdDigit, Nat.mod_eq_of_lt (hd p hp)]

theorem digitChar_ofNat {x : Nat} (hx : x < 16) : digitChar (BitVec.ofNat 4 x) = BitVec.ofNat 8 (0x30 + x) := by
  apply BitVec.eq_of_toNat_eq
  simp [digitChar, Nat.mod_eq_of_lt hx]

theorem map_digitChar_nibbleList {n : Nat} {d : Nat → Nat} (hd : ∀ p < n, d p < 16) :
    (nibbleList n d).map digitChar = (List.range n).map fun p => BitVec.ofNat 8 (0x30 + d p) := by
  rw [nibbleList, List.map_map]
  exact List.map_congr_left fun p hp => digitChar_ofNat (hd p (List.mem_range.1 hp))

/-- The number of the byte that holds two nibbles, the earlier one first. -/
def joinNumbers : ImeiLayout → Nat → Nat → Nat
  | .plain, x, y => 16 * x + y
  | .swapped, x, y => 16 * y + x

theorem ofNat_append_ofNat {x y : Nat} (hy : y < 16) :
    BitVec.ofNat 4 x ++ BitVec.ofNat 4 y = BitVec.ofNat 8 (16 * x + y) := by
  apply BitVec.eq_of_toNat_eq
  simp only [toNat_append_eq_add, BitVec.toNat_ofNat]
  omega

theorem joinNibbles_ofNat (m : ImeiLayout) {x y : Nat} (hx : x < 16) (hy : y < 16) :
    joinNibbles m (BitVec.ofNat 4 x) (BitVec.ofNat 4 y) = BitVec.ofNat 8 (joinNumbers m x y) := by
  cases m with
  | plain => exact ofNat_append_ofNat hy
  | swapped => exact ofNat_append_ofNat hx

theorem packOf_nibbleList (m : ImeiLayout) {w : Nat} {d : Nat → Nat} (hd : ∀ p < 2 * w, d p < 16) :
    packOf m (nibbleList (2 * w) d) =
      (List.range w).map fun k => BitVec.ofNat 8 (joinNumbers m (d (2 * k)) (d (2 * k + 1))) := by
  induction w generalizing d with
  | zero => exact packOf_nil m
  | succ w ih =>
    rw [Nat.mul_succ, nibbleList_succ_eq_cons, nibbleList_succ_eq_cons, packOf_cons_cons,
      joinNibbles_ofNat m (hd _ (by omega)) (hd _ (by omega)), ih fun p hp => hd _ (by omega),
      List.range_succ_eq_map, List.map_cons, List.map_map]
    rfl

/-! ### The operand span as nibbles and digits -/

/-- Nibble `p` of the operand span in the order of a layout (R120, R128). -/
def spanNibble : ImeiLayout → State → Nat → Nat
  | .plain, s => nibbleHighFirst s
  | .swapped, s => nibbleLowFirst s

theorem spanNibble_lt (m : ImeiLayout) (s : State) (p : Nat) : spanNibble m s p < 16 := by
  have hbyte : spanByte s (p / 2) < 256 := BitVec.isLt _
  cases m <;> simp only [spanNibble, nibbleHighFirst, nibbleLowFirst] <;> split <;> omega

theorem hiNibble_eq_ofNat (b : Byte) : hiNibble b = BitVec.ofNat 4 (b.toNat / 16) := by
  simp [hiNibble, BitVec.extractLsb', Nat.shiftRight_eq_div_pow]

theorem loNibble_eq_ofNat (b : Byte) : loNibble b = BitVec.ofNat 4 (b.toNat % 16) := by
  apply BitVec.eq_of_toNat_eq
  simp [loNibble]

theorem nibblesOf_memRead (m : ImeiLayout) (s : State) (n : Nat) :
    nibblesOf m (s.memRead s.off.toNat n) = nibbleList (2 * n) (spanNibble m s) := by
  induction n with
  | zero => cases m <;> rfl
  | succ n ih =>
    have hread : s.memRead s.off.toNat (n + 1) = s.memRead s.off.toNat n ++ [s.ibufByte (s.off.toNat + n)] := by
      simp [State.memRead, List.range_succ]
    rw [hread, nibblesOf_append, ih, Nat.mul_succ, nibbleList_succ, nibbleList_succ, List.append_assoc]
    congr 1
    cases m <;>
      simp [nibblesOf, nibblesPlain, nibblesSwapped, spanNibble, nibbleHighFirst, nibbleLowFirst, spanByte,
        hiNibble_eq_ofNat, loNibble_eq_ofNat, Nat.mul_add_div]

theorem digitOf_eq_ofNat {c : Byte} (h : 0x30 ≤ c.toNat) : digitOf c = BitVec.ofNat 4 (c.toNat - 0x30) := by
  apply BitVec.eq_of_toNat_eq
  simp only [digitOf, BitVec.toNat_setWidth, BitVec.toNat_sub, BitVec.toNat_ofNat]
  omega

theorem all_isDigitChar_memRead_iff (s : State) :
    (s.memRead s.off.toNat s.len.toNat).all isDigitChar = true ↔ spanIsDigits s := by
  simp [State.memRead, isDigitChar, spanIsDigits, spanByte]

theorem map_digitOf_memRead {s : State} (h : spanIsDigits s) :
    (s.memRead s.off.toNat s.len.toNat).map digitOf = nibbleList s.len.toNat fun p => spanByte s p - 0x30 := by
  rw [State.memRead, List.map_map]
  exact List.map_congr_left fun p hp => digitOf_eq_ofNat (h p (List.mem_range.1 hp)).1

/-- Digit `p` of the span left-padded with 0 to `n` digits (R122, R125). -/
def leftPaddedDigit (s : State) (n p : Nat) : Nat :=
  if p < n - s.len.toNat then 0 else spanByte s (p - (n - s.len.toNat)) - 0x30

theorem leftPaddedDigit_lt {s : State} {n p : Nat} (h : spanIsDigits s) (hp : p < n) : leftPaddedDigit s n p < 16 := by
  unfold leftPaddedDigit
  split
  · decide
  · have := h (p - (n - s.len.toNat)) (by omega)
    omega

theorem paddedDigits_memRead {s : State} {w : Nat} (h : spanIsDigits s) (hlen : s.len.toNat ≤ 2 * w) :
    paddedDigits (s.memRead s.off.toNat s.len.toNat) w = nibbleList (2 * w) (leftPaddedDigit s (2 * w)) := by
  have hpad : nibbleList (2 * w - s.len.toNat) (leftPaddedDigit s (2 * w)) =
      List.replicate (2 * w - s.len.toNat) 0#4 := by
    have hzero : ∀ p < 2 * w - s.len.toNat, leftPaddedDigit s (2 * w) p = 0 := fun p hp => if_pos hp
    rw [nibbleList_congr hzero]
    simp [nibbleList]
  have hdigits : (nibbleList s.len.toNat fun p => leftPaddedDigit s (2 * w) (2 * w - s.len.toNat + p)) =
      nibbleList s.len.toNat fun p => spanByte s p - 0x30 :=
    nibbleList_congr fun p _ => by simp [leftPaddedDigit]
  rw [paddedDigits, memRead_length, map_digitOf_memRead h, ← hpad, ← hdigits, ← nibbleList_add, Nat.sub_add_cancel hlen]

/-- Digit `p` of the span right-padded with 0xF (R126). -/
def rightPaddedDigit (s : State) (p : Nat) : Nat := if p < s.len.toNat then spanByte s p - 0x30 else 0xF

theorem rightPaddedDigit_lt {s : State} (h : spanIsDigits s) (p : Nat) : rightPaddedDigit s p < 16 := by
  unfold rightPaddedDigit
  split
  · have := h p ‹_›
    omega
  · decide

/-- Digit `p` of the 16 of an IMEI (R125, R126). -/
def imeiDigit : ImeiLayout → State → Nat → Nat
  | .plain, s => leftPaddedDigit s 16
  | .swapped, s => rightPaddedDigit s

theorem imeiDigit_lt {s : State} (h : spanIsDigits s) (m : ImeiLayout) {p : Nat} (hp : p < 16) :
    imeiDigit m s p < 16 := by
  cases m with
  | plain => exact leftPaddedDigit_lt h hp
  | swapped => exact rightPaddedDigit_lt h p

theorem imeiNibbles_plain_eq_paddedDigits {str : List Byte} (h : str.length = 15 ∨ str.length = 16) :
    imeiNibbles .plain str = paddedDigits str 8 := by
  rw [imeiNibbles_plain, paddedDigits]
  rcases h with h | h <;> rw [h] <;> rfl

theorem imeiNibbles_memRead {s : State} (m : ImeiLayout) (h : spanIsDigits s)
    (hlen : s.len.toNat = 15 ∨ s.len.toNat = 16) :
    imeiNibbles m (s.memRead s.off.toNat s.len.toNat) = nibbleList 16 (imeiDigit m s) := by
  cases m with
  | plain =>
    rw [imeiNibbles_plain_eq_paddedDigits (by simpa using hlen)]
    exact paddedDigits_memRead h (by omega)
  | swapped =>
    have hdigits : nibbleList s.len.toNat (rightPaddedDigit s) =
        (s.memRead s.off.toNat s.len.toNat).map digitOf := by
      rw [map_digitOf_memRead h]
      exact nibbleList_congr fun p hp => if_pos hp
    rw [imeiNibbles_swapped, ← hdigits, memRead_length, imeiDigit]
    rcases hlen with hlen | hlen
    · have hpad : rightPaddedDigit s 15 = 0xF := if_neg (by omega)
      rw [hlen, nibbleList_succ 15, hpad]
      rfl
    · rw [hlen]
      exact List.append_nil _

theorem imeiAccepted_memRead_iff (m : ImeiLayout) (s : State) :
    ImeiAccepted m (s.memRead s.off.toNat s.len.toNat) ↔ (s.len.toNat = 15 ∨ s.len.toNat = 16) ∧ spanIsDigits s ∧
      ¬ (m = .plain ∧ s.len.toNat = 16 ∧ spanByte s 0 = 0x30) := by
  have hhead (h : s.len.toNat = 16) :
      (s.memRead s.off.toNat s.len.toNat).head? = some 0x30#8 ↔ spanByte s 0 = 0x30 := by
    rw [List.head?_eq_getElem?, memRead_getElem?, if_pos (by omega), Option.some_inj, ← BitVec.toNat_inj]
    rfl
  rw [ImeiAccepted, memRead_length, all_isDigitChar_memRead_iff]
  exact and_congr_right' (and_congr_right' (not_congr (and_congr_right' (and_congr_right hhead))))

/-! ### The commands -/

theorem complete_span_of_le {s : State} {n : Nat} {f : List Byte → Except ErrCode State}
    (h : s.off.toNat + n ≤ s.ilen) :
    complete s (operandSpan s n >>= f) = complete s (f (s.memRead s.off.toNat n)) := by
  rw [operandSpan_of_le h, except_bind_ok]

theorem complete_span_of_lt {s : State} {n : Nat} {f : List Byte → Except ErrCode State}
    (h : s.ilen < s.off.toNat + n) : complete s (operandSpan s n >>= f) = .next (fail .truncatedPayloadError s) := by
  rw [operandSpan_of_lt h]
  rfl

/-- The end of a command that has read its span: the bytes `x` gives are written to OBUF and CNT takes `c` (R123). -/
def writeResult (s : State) (c : Word) (x : Except ErrCode (List Byte)) : Host.Outcome State Fault Refusal :=
  complete s (x >>= fun v => pure (succeed { s.memWrite v with cnt := c }))

theorem writeResult_error (s : State) (c : Word) (e : ErrCode) : writeResult s c (.error e) = .next (fail e s) := rfl

/-- What a command leaves that writes `n` bytes, byte `k` being `f k`: the frame of O25 to O28. -/
theorem writeResult_ok (s : State) (c : Word) (n : Nat) (f : Nat → Byte) :
    ∃ t, writeResult s c (.ok ((List.range n).map f)) = .next t ∧ t.olen = n ∧ (∀ k < n, t.obufAt k = some (f k)) ∧
      (∀ a, n ≤ a → t.obufAt a = none) ∧
      t = { s with obuf := t.obuf, olen := t.olen, cnt := c, err := .ok, vok := false } := by
  have hobuf (a : Nat) : (succeed { s.memWrite ((List.range n).map f) with cnt := c }).obufAt a =
      ((List.range n).map f)[a]? := memWrite_obufAt s _ a
  exact ⟨_, rfl, by simp, fun k hk => (hobuf k).trans (by simp [hk]), fun a ha => (hobuf a).trans (by simp [ha]), rfl⟩

/-- The nibbles decide: they are written as characters, or one of them is no digit. -/
theorem writeResult_nibblesToString {n : Nat} {d : Nat → Nat} (hd : ∀ p < n, d p < 16) (s : State) (c : Word) :
    ((∀ p < n, d p ≤ 9) → ∃ t, writeResult s c (nibblesToString (nibbleList n d)) = .next t ∧ t.olen = n ∧
      (∀ p < n, t.obufAt p = some (BitVec.ofNat 8 (0x30 + d p))) ∧ (∀ a, n ≤ a → t.obufAt a = none) ∧
      t = { s with obuf := t.obuf, olen := t.olen, cnt := c, err := .ok, vok := false }) ∧
    (¬ (∀ p < n, d p ≤ 9) → writeResult s c (nibblesToString (nibbleList n d)) = .next (fail .bcdNibbleError s)) := by
  rw [← all_nibbleList hd]
  refine ⟨fun h => ?_, fun h => ?_⟩
  · rw [nibblesToString_of_all h, map_digitChar_nibbleList hd]
    exact writeResult_ok ..
  · rw [nibblesToString_of_not_all h, writeResult_error]

/-- Settles O25: the span decides, then its nibbles. -/
theorem bcd2strDecodesDigits : Obligations.Bcd2strDecodesDigits := by
  intro s
  obtain ⟨hok, herr⟩ := writeResult_nibblesToString (n := 2 * s.len.toNat) (fun p _ => spanNibble_lt .plain s p) s s.len
  have hrun (hb : s.off.toNat + s.len.toNat ≤ s.ilen) :
      exec .bcd2str s = writeResult s s.len (nibblesToString (nibbleList (2 * s.len.toNat) (spanNibble .plain s))) :=
    (complete_span_of_le hb).trans (congrArg (writeResult s s.len ∘ nibblesToString) (nibblesOf_memRead .plain s _))
  refine ⟨fun hb h => hrun hb ▸ hok h, fun hb ⟨p, hp, h⟩ => ?_, complete_span_of_lt⟩
  rw [hrun hb, herr fun hall => absurd (hall p hp) (Nat.not_le.2 h)]

/-- Settles O26: the span decides, then the three conditions on the string and the width. -/
theorem str2bcdEncodesDigits : Obligations.Str2bcdEncodesDigits := by
  rintro s _ _ _ rfl rfl rfl
  have hrun (hb : s.off.toNat + s.len.toNat ≤ s.ilen) (hcap : s.val.toNat ≤ 2 * s.config.ibufCap) :
      exec .str2bcd s =
        writeResult s s.len (stringToBcdDigits (s.memRead s.off.toNat s.len.toNat) s.val.toNat) :=
    (complete_span_of_le hb).trans (congrArg (complete s) (if_neg (Nat.not_lt.2 hcap)))
  refine ⟨fun hb hcap hdig hlen => ?_, fun hb hbad => ?_, complete_span_of_lt⟩
  · rw [hrun hb hcap, stringToBcdDigits_eq, memRead_length, if_pos ⟨(all_isDigitChar_memRead_iff s).2 hdig, hlen⟩,
      paddedDigits_memRead hdig hlen]
    have hpack : packPlain (nibbleList (2 * s.val.toNat) (leftPaddedDigit s (2 * s.val.toNat))) = _ :=
      packOf_nibbleList .plain fun p hp => leftPaddedDigit_lt hdig hp
    rw [hpack]
    exact writeResult_ok ..
  · by_cases hcap : s.val.toNat ≤ 2 * s.config.ibufCap
    · rw [hrun hb hcap, stringToBcdDigits_eq, memRead_length, if_neg, writeResult_error]
      rw [all_isDigitChar_memRead_iff]
      rintro ⟨hdig, hlen⟩
      rcases hbad with h | h | h
      · omega
      · exact h hdig
      · omega
    · exact (complete_span_of_le hb).trans (congrArg (complete s) (if_pos (Nat.not_le.1 hcap)))

/-- Settles O27: the span decides, then whether the string is accepted. -/
theorem imei2bcdEncodesImei : Obligations.Imei2bcdEncodesImei := by
  rintro s m _ d accepted rfl hd hacc
  obtain rfl : d = imeiDigit m s := by cases m <;> exact hd
  rw [← imeiAccepted_memRead_iff] at hacc
  have hrun (hb : s.off.toNat + s.len.toNat ≤ s.ilen) :
      exec (.imei2bcd m) s = writeResult s s.len (imeiToBcd m (s.memRead s.off.toNat s.len.toNat)) :=
    complete_span_of_le hb
  refine ⟨fun hb h => ?_, fun hb h => ?_, complete_span_of_lt⟩
  · obtain ⟨hlen, hdig, -⟩ := (imeiAccepted_memRead_iff m s).1 (hacc.1 h)
    rw [hrun hb, imeiToBcd_of_accepted (hacc.1 h), imeiNibbles_memRead m hdig hlen,
      packOf_nibbleList m (w := 8) fun p hp => imeiDigit_lt hdig m hp]
    cases m <;> exact writeResult_ok ..
  · rw [hrun hb, imeiToBcd_of_not_accepted (mt hacc.2 h), writeResult_error]

/-- The nibble of the pad is the pad (R127, R128). -/
def PadStands : ImeiLayout → (Nat → Nat) → Prop
  | .plain, d => d 0 = 0
  | .swapped, d => d 15 = 0xF

/-- Digit `j` of the `n` that a string of sixteen nibbles holds: a leading pad is dropped when there are fifteen (R127,
R128). -/
def decodedDigit (m : ImeiLayout) (n : Nat) (d : Nat → Nat) (j : Nat) : Nat :=
  d (if m = .plain ∧ n = 15 then j + 1 else j)

theorem decodedDigit_sixteen (m : ImeiLayout) (d : Nat → Nat) : decodedDigit m 16 d = d := by cases m <;> rfl

theorem nibbleList_of_padStands {m : ImeiLayout} {d : Nat → Nat} (h : PadStands m d) :
    nibbleList 16 d = withPad m (nibbleList 15 (decodedDigit m 15 d)) := by
  cases m with
  | plain =>
    rw [nibbleList_succ_eq_cons, show d 0 = 0 from h]
    rfl
  | swapped =>
    rw [nibbleList_succ, show d 15 = 0xF from h]
    rfl

theorem padStands_of_nibbleList_eq {m : ImeiLayout} {d : Nat → Nat} (hd : ∀ p, d p < 16) {l : List Nibble}
    (h : nibbleList 16 d = withPad m l) : PadStands m d := by
  have hnat {p x : Nat} (hx : x < 16) (he : BitVec.ofNat 4 (d p) = BitVec.ofNat 4 x) : d p = x := by
    have := congrArg BitVec.toNat he
    rwa [toNat_ofNat_of_lt (hd p), toNat_ofNat_of_lt hx] at this
  cases m with
  | plain =>
    rw [nibbleList_succ_eq_cons] at h
    exact hnat (by decide) (List.cons.inj h).1
  | swapped =>
    rw [nibbleList_succ] at h
    exact hnat (by decide) (List.cons.inj (List.append_inj' h rfl).2).1

/-- The nibbles that bcdToImei takes (R127, R128). -/
def ImeiNibblesAccepted (m : ImeiLayout) (d : Nat → Nat) : Prop :=
  (∀ p < 15, d p ≤ 9) ∧ (d 15 ≤ 9 ∨ m = .swapped ∧ d 15 = 0xF)

theorem imeiNibblesAccepted_iff_of_padStands {m : ImeiLayout} {d : Nat → Nat} (h : PadStands m d) :
    ImeiNibblesAccepted m d ↔ ∀ p < 15, decodedDigit m 15 d p ≤ 9 := by
  cases m with
  | plain =>
    have hzero : d 0 ≤ 9 := (show d 0 = 0 from h).le.trans (by decide)
    have hall : (∀ p < 16, d p ≤ 9) ↔ ∀ p < 15, d (p + 1) ≤ 9 := by
      rw [Nat.forall_lt_succ_left, and_iff_right hzero]
    refine Iff.trans ?_ hall
    rw [Nat.forall_lt_succ_right]
    exact and_congr_right' (or_iff_left fun h => nomatch h.1)
  | swapped => exact and_iff_left (.inr ⟨rfl, h⟩)

theorem imeiNibblesAccepted_iff_of_not_padStands {m : ImeiLayout} {d : Nat → Nat} (h : ¬ PadStands m d) :
    ImeiNibblesAccepted m d ↔ ∀ p < 16, d p ≤ 9 := by
  rw [Nat.forall_lt_succ_right]
  exact and_congr_right' (or_iff_left fun ⟨hm, hlast⟩ => h (hm ▸ hlast))

/-- The pad says how many of the sixteen nibbles are the digits, and the bytes are accepted when those are decimal. -/
theorem bcdToImei_memRead (m : ImeiLayout) (s : State) : ∃ n,
    (PadStands m (spanNibble m s) → n = 15) ∧ (¬ PadStands m (spanNibble m s) → n = 16) ∧
    bcdToImei m (s.memRead s.off.toNat 8) = nibblesToString (nibbleList n (decodedDigit m n (spanNibble m s))) ∧
    (ImeiNibblesAccepted m (spanNibble m s) ↔ ∀ p < n, decodedDigit m n (spanNibble m s) p ≤ 9) := by
  have hread := nibblesOf_memRead m s 8
  by_cases hpad : PadStands m (spanNibble m s)
  · exact ⟨15, fun _ => rfl, absurd hpad, bcdToImei_of_padded (hread.trans (nibbleList_of_padStands hpad)),
      imeiNibblesAccepted_iff_of_padStands hpad⟩
  · refine ⟨16, fun h => absurd h hpad, fun _ => rfl, ?_, ?_⟩ <;> rw [decodedDigit_sixteen]
    · rw [bcdToImei_of_unpadded, hread]
      exact fun l hl => hpad (padStands_of_nibbleList_eq (spanNibble_lt m s) (hread.symm.trans hl))
    · exact imeiNibblesAccepted_iff_of_not_padStands hpad

/-- Settles O28: the span decides, then the nibbles that the pad leaves. -/
theorem bcd2imeiDecodesImei : Obligations.Bcd2imeiDecodesImei := by
  intro s m d hd drop hdrop accepted hacc
  obtain rfl : d = spanNibble m s := by cases m <;> exact hd
  have hdrop' : drop ↔ PadStands m (spanNibble m s) := by cases m <;> exact hdrop
  obtain ⟨n, hpadded, hunpadded, hstring, haccepted⟩ := bcdToImei_memRead m s
  rw [← hdrop'] at hpadded hunpadded
  have hacc' := hacc.trans haccepted
  have hrun (hb : s.off.toNat + 8 ≤ s.ilen) :
      exec (.bcd2imei m) s = writeResult s 8#64 (nibblesToString (nibbleList n (decodedDigit m n (spanNibble m s)))) :=
    (complete_span_of_le hb).trans (congrArg (writeResult s 8#64) hstring)
  obtain ⟨hok, herr⟩ := writeResult_nibblesToString (n := n) (d := decodedDigit m n (spanNibble m s))
    (fun p _ => spanNibble_lt m s _) s 8#64
  refine ⟨fun hb h => ?_, fun hb h => (hrun hb).trans (herr (mt hacc'.2 h)), complete_span_of_lt⟩
  obtain ⟨t, ht, rfl, hbytes, hnone, hframe⟩ := hok (hacc'.1 h)
  exact ⟨t, (hrun hb).trans ht, hpadded, hunpadded, hbytes, hnone, hframe⟩

end Sys2Proof.Machine

/-! SUPPORT. The statements of 42_checksum. A one-bit CRC step is linear over XOR and injective, so any number of them
is; one byte of either CRC by table is eight such steps on the register XOR the byte (R158). What a change of one byte,
or the checksum at the end of its own span, comes to follows from that. -/

namespace Sys2Proof.Machine

open Sys2Proof.Claims

/-! ### XOR-sum -/

@[simp] theorem xorSum_nil : xorSum [] = 0#8 := rfl

theorem xorSum_singleton (b : Byte) : xorSum [b] = b := BitVec.zero_xor

theorem xorSum_append (a b : List Byte) : xorSum (a ++ b) = xorSum a ^^^ xorSum b := by
  have hzero : xorSum a ^^^ 0#8 = xorSum a := BitVec.xor_zero
  calc xorSum (a ++ b) = b.foldl (· ^^^ ·) (xorSum a ^^^ 0#8) := by rw [hzero]; exact List.foldl_append
    _ = xorSum a ^^^ xorSum b := List.foldl_assoc

/-- Settles O31: XOR is associative and commutative, and 0 is neutral. -/
theorem xorSumIsXorOfEveryByte : Obligations.XorSumIsXorOfEveryByte :=
  ⟨xorSum_nil, xorSum_singleton, xorSum_append, fun _ _ h => h.foldl_op_eq⟩

/-- Settles O35: no step is taken. -/
theorem emptySpanChecksums : Obligations.EmptySpanChecksums :=
  ⟨xorSum_nil, BitVec.xor_self, fun _ => rfl⟩

/-! ### One-bit CRC steps -/

theorem crcRounds_eq_iterate {w : Nat} (round : BitVec w → BitVec w) (n : Nat) : crcRounds round n = round^[n] := by
  induction n with
  | zero => rfl
  | succ n ih => exact congrArg (· ∘ round) ih

theorem rounds_eq_crcRounds {w : Nat} (round : BitVec w → BitVec w) (n : Nat) : rounds round n = crcRounds round n := by
  rw [crcRounds_eq_iterate]
  induction n with
  | zero => rfl
  | succ n ih => rw [Function.iterate_succ', ← ih]; rfl

theorem crcRounds_add {w : Nat} (round : BitVec w → BitVec w) (m n : Nat) (r : BitVec w) :
    crcRounds round (m + n) r = crcRounds round m (crcRounds round n r) := by
  simp only [crcRounds_eq_iterate, Function.iterate_add_apply]

/-- A function that is linear over XOR. -/
abbrev XorLinear {w : Nat} (f : BitVec w → BitVec w) : Prop := Function.Semiconj₂ f (· ^^^ ·) (· ^^^ ·)

theorem xorLinear_crcRounds {w : Nat} {round : BitVec w → BitVec w} (h : XorLinear round) (n : Nat) :
    XorLinear (crcRounds round n) := by
  rw [crcRounds_eq_iterate]
  exact h.iterate n

theorem injective_crcRounds {w : Nat} {round : BitVec w → BitVec w} (h : Function.Injective round) (n : Nat) :
    Function.Injective (crcRounds round n) := by
  rw [crcRounds_eq_iterate]
  exact h.iterate n

/-- A linear function with nothing but 0 in its kernel is injective. -/
theorem XorLinear.injective {w : Nat} {f : BitVec w → BitVec w} (hf : XorLinear f) (hker : ∀ r, f r = 0#w → r = 0#w) :
    Function.Injective f := fun a b hab =>
  BitVec.xor_eq_zero_iff.1 (hker _ ((hf a b).trans (BitVec.xor_eq_zero_iff.2 hab)))

/-- A linear shift, with a polynomial XORed in when bit `k` is 1, is linear: the polynomial of two such bits cancels. -/
theorem xorLinear_feedback {w : Nat} {shift : BitVec w → BitVec w} (h : XorLinear shift) (k : Nat) (poly : BitVec w) :
    XorLinear fun r => if r.getLsbD k then shift r ^^^ poly else shift r := by
  intro a b
  have hab : shift (a ^^^ b) = shift a ^^^ shift b := h a b
  have hcancel : shift a ^^^ poly ^^^ (shift b ^^^ poly) = shift a ^^^ shift b ^^^ (poly ^^^ poly) := by ac_rfl
  cases ha : a.getLsbD k <;> cases hb : b.getLsbD k <;> simp [ha, hb, hab, hcancel] <;> ac_rfl

/-- Such a step is injective when the shift loses bit `k` alone and its result never is the polynomial. -/
theorem injective_feedback {w : Nat} {shift : BitVec w → BitVec w} (h : XorLinear shift) {k : Nat} {poly : BitVec w}
    (hlost : ∀ r, shift r = 0#w → r.getLsbD k = false → r = 0#w) (hpoly : ∀ r, shift r ≠ poly) :
    Function.Injective fun r => if r.getLsbD k then shift r ^^^ poly else shift r := by
  refine (xorLinear_feedback h k poly).injective fun r hr => ?_
  split at hr
  · exact absurd (BitVec.xor_eq_zero_iff.1 hr) (hpoly r)
  · exact hlost r hr (Bool.eq_false_of_not_eq_true ‹_›)

/-! ### CRC-16/X25 -/

theorem xorLinear_crc16Round : XorLinear crc16Round :=
  xorLinear_feedback (fun a b => BitVec.ushiftRight_xor_distrib a b 1) 0 0x8408#16

theorem injective_crc16Round : Function.Injective crc16Round := by
  refine injective_feedback (fun a b => BitVec.ushiftRight_xor_distrib a b 1) (fun r hr h0 => ?_) fun r hr => ?_
  · refine BitVec.eq_of_getLsbD_eq fun i _ => ?_
    cases i with
    | zero => exact h0
    | succ i => simpa [Nat.add_comm 1] using congrArg (·.getLsbD i) hr
  · simpa using congrArg (·.getLsbD 15) hr

theorem crcRounds_crc16Round_xor (n : Nat) (a b : BitVec 16) :
    crcRounds crc16Round n (a ^^^ b) = crcRounds crc16Round n a ^^^ crcRounds crc16Round n b :=
  xorLinear_crcRounds xorLinear_crc16Round n a b

/-- A register whose `n` low bits are 0 is only shifted. -/
theorem crcRounds_crc16Round_of_low_zero {n : Nat} {r : BitVec 16} (h : ∀ i < n, r.getLsbD i = false) :
    crcRounds crc16Round n r = r >>> n := by
  induction n generalizing r with
  | zero => rfl
  | succ n ih =>
    have hround : crc16Round r = r >>> 1 := if_neg (by rw [h 0 n.succ_pos]; decide)
    have hlow : ∀ i < n, (r >>> 1).getLsbD i = false := fun i hi => by simp [h (1 + i) (by omega)]
    rw [crcRounds, hround, ih hlow, ← BitVec.shiftRight_add, Nat.add_comm]

/-- The high byte of a register reaches the low end in eight rounds. -/
theorem crcRounds_crc16Round_high (v : BitVec 16) : crcRounds crc16Round 8 (v >>> 8 <<< 8) = v >>> 8 := by
  rw [crcRounds_crc16Round_of_low_zero fun i hi => by simp [hi]]
  grind

theorem low_xor_high (v : BitVec 16) : (v.setWidth 8).setWidth 16 ^^^ v >>> 8 <<< 8 = v := by
  grind

/-- One byte by table is eight bit-serial rounds on the register XOR the byte: the low byte goes through the table, the
high byte is only shifted (R158). -/
theorem crc16Step_eq_crcRounds (acc : BitVec 16) (b : Byte) :
    crc16Step acc b = crcRounds crc16Round 8 (acc ^^^ b.setWidth 16) := by
  have hsplit : acc ^^^ b.setWidth 16 = (acc.setWidth 8 ^^^ b).setWidth 16 ^^^ acc >>> 8 <<< 8 := by
    conv_lhs => rw [← low_xor_high acc]
    rw [BitVec.setWidth_xor]
    ac_rfl
  rw [hsplit, crcRounds_crc16Round_xor, crcRounds_crc16Round_high]
  rfl

/-- The two bytes of `v`, least significant first, are sixteen rounds on the register XOR `v`. -/
theorem foldl_crc16Step_leBytes (acc v : BitVec 16) :
    (leBytes v.toNat 2).foldl crc16Step acc = crcRounds crc16Round 16 (acc ^^^ v) := by
  have hbytes : leBytes v.toNat 2 = [v.setWidth 8, (v >>> 8).setWidth 8] := by
    simp [BitVec.toNat_eq, Nat.shiftRight_eq_div_pow]
  have hhigh : ((v >>> 8).setWidth 8).setWidth 16 = crcRounds crc16Round 8 (v >>> 8 <<< 8) := by
    rw [crcRounds_crc16Round_high]
    grind
  have hboth : acc ^^^ (v.setWidth 8).setWidth 16 ^^^ v >>> 8 <<< 8 = acc ^^^ v := by
    rw [BitVec.xor_assoc, low_xor_high]
  rw [hbytes, List.foldl_cons, List.foldl_cons, List.foldl_nil, crc16Step_eq_crcRounds, crc16Step_eq_crcRounds, hhigh,
    ← crcRounds_crc16Round_xor, hboth, ← crcRounds_add]

/-! ### CRC-8 -/

theorem injective_crc8Round : Function.Injective crc8Round := by
  refine injective_feedback (fun a b => BitVec.shiftLeft_xor_distrib a b 1) (fun r hr h7 => ?_) fun r hr => ?_
  · refine BitVec.eq_of_getLsbD_eq fun i hi => ?_
    rcases Nat.lt_or_eq_of_le (Nat.le_of_lt_succ hi) with hi | rfl
    · have hbit : i + 1 < 8 ∧ i < 8 := by omega
      simpa [hbit, BitVec.getLsbD_eq_getElem] using congrArg (·.getLsbD (i + 1)) hr
    · exact h7
  · simpa using congrArg (·.getLsbD 0) hr

/-- The printed default table is what R153's formula gives. -/
theorem crc8Lookup_crc8DefaultTable : ∀ i : Byte, crc8Lookup crc8DefaultTable i = crcRounds crc8Round 8 i := by
  decide +kernel

theorem crc8_append_singleton (table : Crc8Table) (span : List Byte) (b : Byte) :
    crc8 table (span ++ [b]) = crc8Lookup table (crc8 table span ^^^ b) := List.foldl_append

/-- A table is read at row `i/16`, column `i%16` (R153). -/
theorem getElem?_crc8Lookup (table : Crc8Table) (i : Byte) :
    (table[i.toNat / 16]?.bind fun row => row[i.toNat % 16]?) = some (crc8Lookup table i) := by
  have hrow : i.toNat / 16 < 16 := Nat.div_lt_of_lt_mul i.isLt
  have hcol : i.toNat % 16 < 16 := Nat.mod_lt _ (by decide)
  rw [Vector.getElem?_eq_getElem hrow, Option.bind_some, Vector.getElem?_eq_getElem hcol]
  rfl

/-! ### The statements about spans -/

theorem crc16X25_eq_crc16Serial (span : List Byte) : crc16X25 span = crc16Serial span := by
  have hstep : crc16Step = fun acc b => rounds crc16Round 8 (acc ^^^ b.setWidth 16) := by
    funext acc b
    rw [crc16Step_eq_crcRounds, rounds_eq_crcRounds]
  rw [crc16X25, hstep]
  rfl

theorem crc8_eq_crc8Serial (span : List Byte) : crc8 crc8DefaultTable span = crc8Serial span := by
  have hlookup : crc8Lookup crc8DefaultTable = rounds crc8Round 8 := by
    funext i
    rw [crc8Lookup_crc8DefaultTable, rounds_eq_crcRounds]
  rw [crc8, hlookup]
  rfl

/-- Settles O32: the two forms agree byte by byte, and a table is read at row and column. -/
theorem tableCrcEqualsBitSerial : Obligations.TableCrcEqualsBitSerial := by
  refine ⟨fun span => ⟨crc16X25_eq_crc16Serial span, crc8_eq_crc8Serial span⟩, fun table => ⟨rfl, ?_⟩⟩
  rintro span b _ rfl
  rw [crc8_append_singleton, getElem?_crc8Lookup]

/-- The register and its final XOR with 0xFFFF differ in every bit, so the residue does not depend on the span. -/
theorem crc16X25_append_leBytes (span : List Byte) :
    crc16X25 (span ++ leBytes (crc16X25 span).toNat 2) = 0x0F47#16 := by
  have hxor (r : BitVec 16) : r ^^^ (r ^^^ 0xFFFF#16) = 0xFFFF#16 := by
    rw [← BitVec.xor_assoc, BitVec.xor_self, BitVec.zero_xor]
  have hreg : (span ++ leBytes (crc16X25 span).toNat 2).foldl crc16Step 0xFFFF#16 =
      crcRounds crc16Round 16 0xFFFF#16 := by
    rw [List.foldl_append, foldl_crc16Step_leBytes, crc16X25, hxor]
  rw [crc16X25, hreg]
  decide +kernel

/-- Settles O33: the register of each algorithm XOR the checksum is a constant. -/
theorem ownChecksumResidues : Obligations.OwnChecksumResidues := by
  refine fun span table => ⟨?_, crc16X25_append_leBytes span, fun hzero => ?_, by decide⟩
  · rw [xorSum_append, xorSum_singleton, BitVec.xor_self]
  · rw [crc8_append_singleton, BitVec.xor_self, hzero]

/-! ### A change of one byte -/

theorem foldl_injective {α β : Type} {f : α → β → α} (hf : ∀ b, Function.Injective (f · b)) (l : List β) :
    Function.Injective fun a => l.foldl f a := by
  induction l with
  | nil => exact fun _ _ h => h
  | cons b l ih => exact ih.comp (hf b)

/-- A checksum whose step is an injective `g` on the register XOR the byte tells a change of one byte: the two registers
differ after that byte, and no later byte brings them together. -/
theorem foldl_ne_of_ne {n m : Nat} {g : BitVec n → BitVec n} {widen : BitVec m → BitVec n}
    (hg : Function.Injective g) (hwiden : Function.Injective widen) (init : BitVec n) (front back : List (BitVec m))
    {x y : BitVec m} (hxy : x ≠ y) :
    (front ++ x :: back).foldl (fun acc b => g (acc ^^^ widen b)) init ≠
      (front ++ y :: back).foldl (fun acc b => g (acc ^^^ widen b)) init := by
  have hacc (b : BitVec m) : Function.Injective fun acc => g (acc ^^^ widen b) :=
    fun _ _ h => (BitVec.xor_left_inj _).1 (hg h)
  have hbyte (acc : BitVec n) : Function.Injective fun b => g (acc ^^^ widen b) :=
    fun _ _ h => hwiden ((BitVec.xor_right_inj _).1 (hg h))
  rw [List.foldl_append, List.foldl_append]
  exact ((foldl_injective hacc back).comp (hbyte _)).ne hxy

theorem crc16X25_ne_of_ne (front back : List Byte) {x y : Byte} (hxy : x ≠ y) :
    crc16X25 (front ++ x :: back) ≠ crc16X25 (front ++ y :: back) := by
  have hwiden : Function.Injective (BitVec.setWidth 16 : Byte → BitVec 16) := fun a b h => by
    simpa using congrArg (BitVec.setWidth 8) h
  have hstep : crc16Step = fun acc b => crcRounds crc16Round 8 (acc ^^^ b.setWidth 16) :=
    funext₂ crc16Step_eq_crcRounds
  rw [crc16X25, crc16X25, Ne, BitVec.xor_left_inj, hstep]
  exact foldl_ne_of_ne (injective_crcRounds injective_crc16Round 8) hwiden _ front back hxy

theorem crc8_ne_of_ne {table : Crc8Table} (htable : Function.Injective (crc8Lookup table)) (front back : List Byte)
    {x y : Byte} (hxy : x ≠ y) : crc8 table (front ++ x :: back) ≠ crc8 table (front ++ y :: back) :=
  foldl_ne_of_ne htable Function.injective_id _ front back hxy

theorem xorSum_ne_of_ne (front back : List Byte) {x y : Byte} (hxy : x ≠ y) :
    xorSum (front ++ x :: back) ≠ xorSum (front ++ y :: back) :=
  foldl_ne_of_ne Function.injective_id Function.injective_id _ front back hxy

theorem injective_crc8Lookup_crc8DefaultTable : Function.Injective (crc8Lookup crc8DefaultTable) := by
  rw [funext crc8Lookup_crc8DefaultTable]
  exact injective_crcRounds injective_crc8Round 8

/-- Settles O34: each step is injective in the register and in the byte. -/
theorem oneByteChangeIsDetected : Obligations.OneByteChangeIsDetected := fun front back _ _ hxy =>
  ⟨crc16X25_ne_of_ne front back hxy, crc8_ne_of_ne injective_crc8Lookup_crc8DefaultTable front back hxy,
    xorSum_ne_of_ne front back hxy⟩

/-! ### The commands -/

theorem computeChecksum_of_le {checksum : List Byte → Word} {s : State} (hb : s.off.toNat + s.len.toNat ≤ s.ilen) :
    computeChecksum checksum s =
      .next (succeed { s with res := checksum (s.memRead s.off.toNat s.len.toNat), cnt := s.len }) :=
  complete_span_of_le hb

theorem verifyChecksum_of_le {checksum : List Byte → Word} {s : State} (hb : s.off.toNat + s.len.toNat ≤ s.ilen) :
    verifyChecksum checksum s = .next { s with
      res := checksum (s.memRead s.off.toNat s.len.toNat)
      cnt := s.len
      vok := claimMatches (checksum (s.memRead s.off.toNat s.len.toNat)) s.claim
      err := .ok } :=
  complete_span_of_le hb

@[simp] theorem xorSumWord_toNat (span : List Byte) : (xorSumWord span).toNat = (xorSum span).toNat :=
  BitVec.toNat_setWidth_of_le (by decide)

@[simp] theorem crc16Word_toNat (span : List Byte) : (crc16Word span).toNat = (crc16X25 span).toNat :=
  BitVec.toNat_setWidth_of_le (by decide)

@[simp] theorem crc8Word_toNat (table : Crc8Table) (span : List Byte) :
    (crc8Word table span).toNat = (crc8 table span).toNat :=
  BitVec.toNat_setWidth_of_le (by decide)

/-- What O36 says of each of its three commands. -/
theorem computeChecksum_spec {checksum : List Byte → Word} {s : State} {c : Nat}
    (hc : (checksum (s.memRead s.off.toNat s.len.toNat)).toNat = c) :
    (s.off.toNat + s.len.toNat ≤ s.ilen → ∃ t, computeChecksum checksum s = .next t ∧ t.res.toNat = c ∧
      t = { s with res := t.res, cnt := s.len, err := .ok, vok := false }) ∧
    (s.ilen < s.off.toNat + s.len.toNat → computeChecksum checksum s = .next (fail .truncatedPayloadError s)) :=
  ⟨fun hb => ⟨_, computeChecksum_of_le hb, hc, rfl⟩, complete_span_of_lt⟩

/-- Settles O36: the span decides, and RES is wide enough for the checksum. -/
theorem computeCommandsGiveChecksum : Obligations.ComputeCommandsGiveChecksum := by
  rintro s _ _ (⟨rfl, rfl⟩ | ⟨rfl, rfl⟩ | ⟨rfl, rfl⟩)
  · exact computeChecksum_spec (xorSumWord_toNat _)
  · exact computeChecksum_spec (crc16Word_toNat _)
  · exact computeChecksum_spec (crc8Word_toNat _ _)

/-- What O37 says of each of its three commands. -/
theorem verifyChecksum_spec {checksum : List Byte → Word} {s : State} {c : Nat}
    (hc : (checksum (s.memRead s.off.toNat s.len.toNat)).toNat = c) :
    (s.off.toNat + s.len.toNat ≤ s.ilen → ∃ t, verifyChecksum checksum s = .next t ∧ t.res.toNat = c ∧
      (t.vok = true ↔ c = s.claim.toNat) ∧ t = { s with res := t.res, cnt := s.len, err := .ok, vok := t.vok }) ∧
    (s.ilen < s.off.toNat + s.len.toNat → verifyChecksum checksum s = .next (fail .truncatedPayloadError s)) := by
  refine ⟨fun hb => ⟨_, verifyChecksum_of_le hb, hc, ?_, rfl⟩, complete_span_of_lt⟩
  rw [claimMatches_iff, BitVec.toNat_eq, hc]

/-- Settles O37: the span decides, and equal words are equal numbers. -/
theorem verifyCommandsCompareClaim : Obligations.VerifyCommandsCompareClaim := by
  rintro s _ _ (⟨rfl, rfl⟩ | ⟨rfl, rfl⟩ | ⟨rfl, rfl⟩)
  · exact verifyChecksum_spec (xorSumWord_toNat _)
  · exact verifyChecksum_spec (crc16Word_toNat _)
  · exact verifyChecksum_spec (crc8Word_toNat _ _)

/-! ### Computing, then verifying -/

/-- The compute and the verify command of each algorithm (R140). -/
def checksumPairs : List (Instr × Instr) := [(.xorc, .xorv), (.c16c, .c16v), (.c8c, .c8v)]

/-- The two commands of a pair use one function of the table and the span. -/
theorem exists_checksum_of_mem_checksumPairs {compute verify : Instr} (h : (compute, verify) ∈ checksumPairs) :
    ∃ checksum : Crc8Table → List Byte → Word,
      (∀ s, exec compute s = computeChecksum (checksum s.config.crc8Table) s) ∧
      ∀ s, exec verify s = verifyChecksum (checksum s.config.crc8Table) s := by
  simp only [checksumPairs, List.mem_cons, List.not_mem_nil, or_false, Prod.mk.injEq] at h
  rcases h with ⟨rfl, rfl⟩ | ⟨rfl, rfl⟩ | ⟨rfl, rfl⟩
  · exact ⟨fun _ => xorSumWord, fun _ => rfl, fun _ => rfl⟩
  · exact ⟨fun _ => crc16Word, fun _ => rfl, fun _ => rfl⟩
  · exact ⟨crc8Word, fun _ => rfl, fun _ => rfl⟩

theorem exists_decode_of_checksum_words {compute verify : CmdWord}
    (h : (compute, verify) ∈ [(0x00000010#32, 0x00000011#32), (0x00000012#32, 0x00000013#32),
      (0x00000014#32, 0x00000015#32)]) :
    ∃ i j, decode compute = .ok i ∧ decode verify = .ok j ∧ (i, j) ∈ checksumPairs := by
  simp only [List.mem_cons, List.not_mem_nil, or_false, Prod.mk.injEq] at h
  rcases h with ⟨rfl, rfl⟩ | ⟨rfl, rfl⟩ | ⟨rfl, rfl⟩ <;> exact ⟨_, _, rfl, rfl, by decide⟩

/-- Verifying a claim that is the checksum of the span. -/
theorem verifyChecksum_of_claim {checksum : List Byte → Word} {s : State} {span : List Byte}
    (hb : s.off.toNat + s.len.toNat ≤ s.ilen) (hspan : s.memRead s.off.toNat s.len.toNat = span)
    (hclaim : checksum span = s.claim) :
    ∃ t, verifyChecksum checksum s = .next t ∧ t.vok = true ∧ t.err = .ok ∧ t.res = s.claim ∧
      t.pending = s.pending := by
  subst hspan
  exact ⟨_, verifyChecksum_of_le hb, (claimMatches_iff _ _).2 hclaim, rfl, hclaim, rfl⟩

/-- The command form of R156: no byte is read at another free-value counter, so the two spans are the same. -/
theorem verify_after_compute {s : State} {compute verify : Instr} (hpair : (compute, verify) ∈ checksumPairs)
    (hb : s.off.toNat + s.len.toNat ≤ s.ilen) :
    ∃ t u, exec compute s = .next t ∧ exec verify { t with claim := t.res } = .next u ∧
      u.vok = true ∧ u.err = .ok ∧ u.res = t.res := by
  obtain ⟨checksum, hcompute, hverify⟩ := exists_checksum_of_mem_checksumPairs hpair
  exact ⟨_, _, (hcompute s).trans (computeChecksum_of_le hb), (hverify _).trans (verifyChecksum_of_le hb),
    (claimMatches_iff _ _).2 rfl, rfl, rfl⟩

/-- What copying `c` to CLAIM and issuing the verify word comes to, when `c` is the checksum of a specified span. -/
theorem steps_verify {checksum : Crc8Table → List Byte → Word} {r : State} {w : CmdWord} {j : Instr} {claimed : Nat}
    {rest : List HostAction} {c : Word} (hj : decode w = .ok j)
    (hverify : ∀ s, exec j s = verifyChecksum (checksum s.config.crc8Table) s)
    (hp : r.pending = .writeReg .claim claimed :: .issue w :: rest) (hb : r.off.toNat + r.len.toNat ≤ r.ilen)
    (hspec : ∀ k < r.len.toNat, (r.ibufAt (r.off.toNat + k)).isSome = true)
    (hc : checksum r.config.crc8Table (r.memRead r.off.toNat r.len.toNat) = c) (hclaimed : claimed = c.toNat) :
    ∃ u v, step r = .next u ∧ step u = .next v ∧ v.vok = true ∧ v.err = .ok ∧ v.res = c ∧ v.pending = rest := by
  subst hclaimed
  have hcopy : BitVec.ofNat 64 c.toNat = c := (BitVec.ofNat_toNat 64 c).trans (BitVec.setWidth_eq c)
  have hwrite := step_writeReg hp (.inl ⟨by decide, c.isLt⟩)
  obtain ⟨v, hv, hvok, herr, hres, hpend⟩ :=
    verifyChecksum_of_claim (checksum := checksum r.config.crc8Table)
      (s := taking rest (hostWriteReg .claim c.toNat (taking (.issue w :: rest) r))) hb
      (memRead_congr hspec fun _ _ => rfl) (hc.trans hcopy.symm)
  exact ⟨_, v, hwrite, (stepRunsDecodedCommand _ _ _ _ rfl hj).trans ((hverify _).trans hv), hvok, herr,
    hres.trans hcopy, hpend⟩

/-- The form of R156 in host actions: what is specified in the span is read alike in both steps. -/
theorem steps_verify_after_compute {s : State} {compute verify : CmdWord} {claimed : Nat} {rest : List HostAction}
    {i j : Instr} (hi : decode compute = .ok i) (hj : decode verify = .ok j) (hpair : (i, j) ∈ checksumPairs)
    (hp : s.pending = .issue compute :: .read (.reg .res) :: .writeReg .claim claimed :: .issue verify :: rest)
    (hb : s.off.toNat + s.len.toNat ≤ s.ilen)
    (hspec : ∀ k < s.len.toNat, (s.ibufAt (s.off.toNat + k)).isSome = true) :
    ∃ t r, step s = .next t ∧ step t = .next r ∧ r.readPort = some t.res ∧
      (claimed = t.res.toNat → ∃ u v, step r = .next u ∧ step u = .next v ∧
        v.vok = true ∧ v.err = .ok ∧ v.res = t.res ∧ v.pending = rest) := by
  obtain ⟨checksum, hcompute, hverify⟩ := exists_checksum_of_mem_checksumPairs hpair
  have hissue := (stepRunsDecodedCommand s _ _ _ hp hi).trans ((hcompute _).trans (computeChecksum_of_le hb))
  exact ⟨_, _, hissue, step_read rfl trivial, rfl,
    steps_verify hj hverify rfl hb hspec (congrArg _ (memRead_congr hspec fun _ _ => rfl))⟩

/-- Settles O38: verifying reads the span that computing read, and compares it with what computing left in RES. -/
theorem computedChecksumVerifies : Obligations.ComputedChecksumVerifies := by
  refine ⟨fun s _ _ hpair hb => verify_after_compute hpair hb, fun s _ _ claimed rest hwords hp hb hspec => ?_⟩
  obtain ⟨i, j, hi, hj, hpair⟩ := exists_decode_of_checksum_words hwords
  exact steps_verify_after_compute hi hj hpair hp hb hspec

end Sys2Proof.Machine

/-! SUPPORT. The statements of 43_bitmask_header. A parse gives the IDs of the bytes up to the first without the
continuation bit, in rising order and told by their presence bits (R172); a build is the shortest header that reaches
every ID, byte by byte (R173). A rising list is determined by its members, so the two are inverse (R176). -/

namespace Sys2Proof.Machine

open Sys2Proof.Claims

/-! ### Bits of a byte as arithmetic -/

theorem byte_getLsbD_iff (b : Byte) (i : Nat) : b.getLsbD i = true ↔ b.toNat / 2 ^ i % 2 = 1 := by
  rw [← BitVec.testBit_toNat, Nat.testBit_eq_decide_div_mod_eq, decide_eq_true_iff]

theorem byte_getLsbD_seven_iff (b : Byte) : b.getLsbD 7 = true ↔ 128 ≤ b.toNat := by
  rw [byte_getLsbD_iff]
  omega

/-! ### The IDs of a header -/

theorem mem_idsOfHeaderByte_iff {k id : Nat} {b : Byte} :
    id ∈ idsOfHeaderByte k b ↔ 1 ≤ id ∧ (id - 1) / 7 = k ∧ b.getLsbD ((id - 1) % 7) = true := by
  simp only [idsOfHeaderByte, List.mem_map, List.mem_filter, List.mem_range]
  constructor
  · rintro ⟨bit, ⟨hbit, hb⟩, rfl⟩
    have hmod : (7 * k + bit + 1 - 1) % 7 = bit := by omega
    exact ⟨by omega, by omega, hmod.symm ▸ hb⟩
  · rintro ⟨hpos, hk, hb⟩
    exact ⟨(id - 1) % 7, ⟨by omega, hb⟩, by omega⟩

theorem idsOfHeaderByte_pairwise (k : Nat) (b : Byte) : (idsOfHeaderByte k b).Pairwise (· < ·) :=
  (List.pairwise_lt_range.filter _).map _ fun _ _ h => by omega

/-- The IDs that the header bytes `f 0`, ..., `f (n-1)` name, as the loop of R172 lists them. -/
def headerIds (f : Nat → Byte) (n : Nat) : List Nat := (List.range n).flatMap fun k => idsOfHeaderByte k (f k)

theorem mem_headerIds_iff {f : Nat → Byte} {n id : Nat} :
    id ∈ headerIds f n ↔ 1 ≤ id ∧ (id - 1) / 7 < n ∧ (f ((id - 1) / 7)).getLsbD ((id - 1) % 7) = true := by
  simp only [headerIds, List.mem_flatMap, List.mem_range, mem_idsOfHeaderByte_iff]
  constructor
  · rintro ⟨k, hk, hpos, rfl, hb⟩
    exact ⟨hpos, hk, hb⟩
  · rintro ⟨hpos, hk, hb⟩
    exact ⟨_, hk, hpos, rfl, hb⟩

/-- Rising within a byte, and the IDs of byte `k` are `7*k + 1`, ..., `7*k + 7` (R171). -/
theorem headerIds_pairwise (f : Nat → Byte) (n : Nat) : (headerIds f n).Pairwise (· < ·) := by
  refine List.pairwise_flatMap.2 ⟨fun k _ => idsOfHeaderByte_pairwise k (f k), ?_⟩
  refine List.pairwise_lt_range.imp fun {k l} hkl x hx y hy => ?_
  obtain ⟨-, hxk, -⟩ := mem_idsOfHeaderByte_iff.1 hx
  obtain ⟨-, hyl, -⟩ := mem_idsOfHeaderByte_iff.1 hy
  omega

/-! ### The parser (R172) -/

/-- The loop from byte `k` on, when byte `k + n` is the first without the continuation bit. -/
theorem parseHeaderFrom_of_terminated {f : Nat → Byte} {k n : Nat} {bytes : List Byte}
    (hbytes : ∀ j ≤ n, bytes[j]? = some (f (k + j))) (hcont : ∀ j < n, (f (k + j)).getLsbD 7 = true)
    (hlast : (f (k + n)).getLsbD 7 = false) :
    parseHeaderFrom k bytes =
      .ok ((List.range' k (n + 1)).flatMap fun i => idsOfHeaderByte i (f i), k + n + 1) := by
  induction n generalizing k bytes with
  | zero =>
    obtain ⟨rest, rfl⟩ := List.head?_eq_some_iff.1 (List.head?_eq_getElem? ▸ hbytes 0 (Nat.le_refl 0))
    rw [parseHeaderFrom, if_neg (ne_true_of_eq_false hlast)]
    simp
  | succ n ih =>
    obtain ⟨rest, rfl⟩ := List.head?_eq_some_iff.1 (List.head?_eq_getElem? ▸ hbytes 0 (Nat.zero_le _))
    have hshift (j : Nat) : k + 1 + j = k + (j + 1) := by omega
    have hrest := ih (k := k + 1) (bytes := rest) (fun j hj => hshift j ▸ hbytes (j + 1) (by omega))
      (fun j hj => hshift j ▸ hcont (j + 1) (by omega)) (hshift n ▸ hlast)
    rw [parseHeaderFrom, if_pos (hcont 0 (Nat.zero_lt_succ n)), hrest, List.range'_succ (n := n + 1), List.flatMap_cons,
      hshift]
    rfl

theorem parseHeaderFrom_of_not_terminated {k : Nat} {bytes : List Byte} (h : ∀ b ∈ bytes, b.getLsbD 7 = true) :
    parseHeaderFrom k bytes = .error .malformedHeaderError := by
  induction bytes generalizing k with
  | nil => rfl
  | cons b rest ih =>
    obtain ⟨hb, hrest⟩ := List.forall_mem_cons.1 h
    rw [parseHeaderFrom, if_pos hb, ih hrest]
    rfl

/-- A parse from `offset`, when `f n` is the first of the bytes `f 0`, `f 1`, ... there without the continuation bit. -/
theorem parseBitmaskHeader_of_terminated {f : Nat → Byte} {n offset : Nat} {payload : List Byte}
    (hbytes : ∀ k ≤ n, payload[offset + k]? = some (f k)) (hcont : ∀ k < n, (f k).getLsbD 7 = true)
    (hlast : (f n).getLsbD 7 = false) :
    parseBitmaskHeader payload offset = .ok (headerIds f (n + 1), n + 1) := by
  have hparse := parseHeaderFrom_of_terminated (f := f) (k := 0) (n := n) (bytes := payload.drop offset)
    (fun j hj => by rw [List.getElem?_drop, hbytes j hj, Nat.zero_add])
    (fun j hj => by rw [Nat.zero_add, hcont j hj]) (by rw [Nat.zero_add, hlast])
  rw [parseBitmaskHeader, hparse, headerIds, List.range_eq_range', Nat.zero_add]

/-! ### The builder (R173) -/

theorem maxId_append_singleton (ids : List Nat) (id : Nat) : maxId (ids ++ [id]) = max (maxId ids) id :=
  List.foldl_append

theorem maxId_le_iff {ids : List Nat} {n : Nat} : maxId ids ≤ n ↔ ∀ id ∈ ids, id ≤ n := by
  induction ids using List.reverseRecOn with
  | nil => simp [maxId]
  | append_singleton ids id ih =>
    rw [maxId_append_singleton, Nat.max_le, ih, List.forall_mem_append, List.forall_mem_singleton]

/-- The length of a header is the least that reaches every ID, and at least one byte. -/
theorem headerLength_le_iff {ids : List Nat} {n : Nat} :
    headerLength ids ≤ n ↔ 1 ≤ n ∧ ∀ id ∈ ids, id ≤ 7 * n := by
  rw [← maxId_le_iff, headerLength]
  omega

theorem le_headerLength {ids : List Nat} {id : Nat} (h : id ∈ ids) : id ≤ 7 * headerLength ids :=
  (headerLength_le_iff.1 (Nat.le_refl _)).2 id h

theorem exists_lt_of_lt_headerLength {ids : List Nat} {n : Nat} (hpos : 1 ≤ n) (h : n < headerLength ids) :
    ∃ id ∈ ids, 7 * n < id := by
  by_contra hall
  push Not at hall
  exact Nat.not_le.2 h (headerLength_le_iff.2 ⟨hpos, hall⟩)

theorem presenceBits_append_singleton (ids : List Nat) (id k : Nat) :
    presenceBits (ids ++ [id]) k =
      if (id - 1) / 7 = k then presenceBits ids k ||| (1#8 <<< ((id - 1) % 7)) else presenceBits ids k :=
  List.foldl_append

theorem one_shiftLeft_getLsbD_iff {i bit : Nat} (hbit : bit < 8) : (1#8 <<< i).getLsbD bit = true ↔ i = bit := by
  rw [BitVec.getLsbD_eq_getElem hbit, BitVec.getElem_shiftLeft, BitVec.getElem_one, Bool.and_eq_true,
    Bool.not_eq_true', decide_eq_false_iff_not, decide_eq_true_iff]
  omega

theorem presenceBits_getLsbD_iff {ids : List Nat} {k bit : Nat} (hbit : bit < 8) :
    (presenceBits ids k).getLsbD bit = true ↔ ∃ id ∈ ids, (id - 1) / 7 = k ∧ (id - 1) % 7 = bit := by
  induction ids using List.reverseRecOn with
  | nil => simp [presenceBits]
  | append_singleton ids id ih =>
    have hlast : (presenceBits (ids ++ [id]) k).getLsbD bit = true ↔
        (presenceBits ids k).getLsbD bit = true ∨ (id - 1) / 7 = k ∧ (id - 1) % 7 = bit := by
      rw [presenceBits_append_singleton]
      by_cases hk : (id - 1) / 7 = k
      · rw [if_pos hk, BitVec.getLsbD_or, Bool.or_eq_true, one_shiftLeft_getLsbD_iff hbit, and_iff_right hk]
      · rw [if_neg hk]
        simp [hk]
    rw [hlast, ih]
    simp [or_and_right, exists_or]

/-- Byte `k` of the header of `ids`: the continuation bit on every byte except the last. -/
def headerByte (ids : List Nat) (k : Nat) : Byte :=
  if k + 1 < headerLength ids then presenceBits ids k ||| 0x80#8 else presenceBits ids k

theorem headerBytes_getElem? (ids : List Nat) {k : Nat} (hk : k < headerLength ids) :
    (headerBytes ids)[k]? = some (headerByte ids k) := by
  simp [headerBytes, headerByte, hk]

theorem headerByte_getLsbD_seven (ids : List Nat) (k : Nat) :
    (headerByte ids k).getLsbD 7 = decide (k + 1 < headerLength ids) := by
  have hpresence : (presenceBits ids k).getLsbD 7 = false :=
    Bool.eq_false_of_not_eq_true fun h => by
      obtain ⟨id, -, -, hbit⟩ := (presenceBits_getLsbD_iff (by decide)).1 h
      omega
  unfold headerByte
  split
  · rw [BitVec.getLsbD_or, hpresence, decide_eq_true ‹_›]
    rfl
  · rw [hpresence, decide_eq_false ‹_›]

/-- The continuation bit touches no presence bit. -/
theorem headerByte_getLsbD_of_lt (ids : List Nat) (k : Nat) {bit : Nat} (hbit : bit < 7) :
    (headerByte ids k).getLsbD bit = (presenceBits ids k).getLsbD bit := by
  have hcont : (0x80#8).getLsbD bit = false := by
    interval_cases bit <;> rfl
  unfold headerByte
  split
  · rw [BitVec.getLsbD_or, hcont, Bool.or_false]
  · rfl

theorem headerByte_getLsbD_iff {ids : List Nat} (h0 : 0 ∉ ids) (k : Nat) {bit : Nat} (hbit : bit < 7) :
    (headerByte ids k).getLsbD bit = true ↔ 7 * k + bit + 1 ∈ ids := by
  rw [headerByte_getLsbD_of_lt ids k hbit, presenceBits_getLsbD_iff (by omega)]
  constructor
  · rintro ⟨id, hid, hk, hb⟩
    have hpos : id ≠ 0 := ne_of_mem_of_not_mem hid h0
    have heq : id = 7 * k + bit + 1 := by omega
    exact heq ▸ hid
  · exact fun h => ⟨_, h, by omega, by omega⟩

theorem mem_headerIds_headerByte_iff {ids : List Nat} (h0 : 0 ∉ ids) {id : Nat} :
    id ∈ headerIds (headerByte ids) (headerLength ids) ↔ id ∈ ids := by
  rw [mem_headerIds_iff, headerByte_getLsbD_iff h0 _ (Nat.mod_lt _ (by decide)), Nat.div_add_mod]
  constructor
  · rintro ⟨hpos, -, hid⟩
    rwa [Nat.sub_add_cancel hpos] at hid
  · intro hid
    have hpos : 1 ≤ id := Nat.one_le_iff_ne_zero.2 (ne_of_mem_of_not_mem hid h0)
    have hle := le_headerLength hid
    exact ⟨hpos, by omega, by rwa [Nat.sub_add_cancel hpos]⟩

theorem buildBitmaskHeader_of_zero_not_mem {ids : List Nat} (h0 : 0 ∉ ids) :
    buildBitmaskHeader ids = .ok (headerBytes ids) :=
  if_neg fun h => h0 (List.contains_iff_mem.1 h)

/-- The header built ends at its last byte, so what follows it is not read. -/
theorem parseBitmaskHeader_headerBytes_append (ids : List Nat) (rest : List Byte) :
    parseBitmaskHeader (headerBytes ids ++ rest) 0 =
      .ok (headerIds (headerByte ids) (headerLength ids), headerLength ids) := by
  obtain ⟨n, hn⟩ : ∃ n, headerLength ids = n + 1 := Nat.exists_eq_add_of_le' (headerLength_pos ids)
  rw [hn]
  refine parseBitmaskHeader_of_terminated (fun k hk => ?_) (fun k hk => ?_) ?_
  · rw [Nat.zero_add, List.getElem?_append_left (by rw [headerBytes_length]; omega),
      headerBytes_getElem? ids (by omega)]
  · rw [headerByte_getLsbD_seven, hn, decide_eq_true_iff]
    omega
  · rw [headerByte_getLsbD_seven, hn, decide_eq_false_iff_not]
    omega

/-- Settles O41: the parse lists the IDs of the built bytes in rising order, and a rising list is determined by its
members. -/
theorem headerRoundTrip : Obligations.HeaderRoundTrip := by
  intro ids rest hsorted hpos
  have h0 : 0 ∉ ids := fun h => absurd (hpos 0 h) (by decide)
  have hids : headerIds (headerByte ids) (headerLength ids) = ids :=
    (headerIds_pairwise _ _).eq_of_mem_iff hsorted fun _ => mem_headerIds_headerByte_iff h0
  refine ⟨_, buildBitmaskHeader_of_zero_not_mem h0, ?_⟩
  rw [parseBitmaskHeader_headerBytes_append, hids, headerBytes_length]

/-! ### The commands -/

theorem execHdrp_of_parse_eq_ok {s : State} {ids : List Nat} {n : Nat}
    (h : parseBitmaskHeader s.payload s.off.toNat = .ok (ids, n)) :
    execHdrp s = .next (succeed { s.idlWrite ids with cnt := BitVec.ofNat 64 n }) := by
  rw [execHdrp, h]
  rfl

theorem execHdrp_of_parse_eq_error {s : State} {e : ErrCode}
    (h : parseBitmaskHeader s.payload s.off.toNat = .error e) : execHdrp s = .next (fail e s) := by
  rw [execHdrp, h]
  rfl

theorem payload_getElem? (s : State) {a : Nat} (h : a < s.ilen) : s.payload[a]? = some (s.ibufByte a) := by
  rw [State.payload, memRead_getElem?, if_pos h, Nat.zero_add]

/-- IDs below 2^16 read back from IDL as they were listed. -/
theorem idlWrite_idlAt_toNat (s : State) {ids : List Nat} (h : ∀ id ∈ ids, id < 2 ^ 16) (j : Nat) :
    ((s.idlWrite ids).idlAt j).map BitVec.toNat = ids[j]? := by
  rw [idlWrite_idlAt, Option.map_map]
  cases hj : ids[j]? with
  | none => rfl
  | some id => exact congrArg some (toNat_ofNat_of_lt (h id (List.mem_of_getElem? hj)))

/-- Settles O39: the bytes from OFF on decide where the header ends, and ILEN bounds its IDs below 2^16. -/
theorem hdrpListsPresentFields : Obligations.HdrpListsPresentFields := by
  refine fun s hilen => ⟨fun k hk hlast hcont => ?_, fun hall => ?_⟩
  · have hparse : parseBitmaskHeader s.payload s.off.toNat =
        .ok (headerIds (fun i => s.ibufByte (s.off.toNat + i)) (k + 1), k + 1) :=
      parseBitmaskHeader_of_terminated (fun i hi => payload_getElem? s (by omega))
        (fun i hi => (byte_getLsbD_seven_iff _).2 (hcont i hi))
        (Bool.eq_false_of_not_eq_true fun h => Nat.not_le.2 hlast ((byte_getLsbD_seven_iff _).1 h))
    refine ⟨_, _, execHdrp_of_parse_eq_ok hparse, toNat_ofNat_of_lt (by omega), rfl, headerIds_pairwise _ _,
      fun id => ?_, idlWrite_idlAt_toNat s fun id hid => ?_, rfl⟩
    · rw [mem_headerIds_iff, byte_getLsbD_iff, Nat.lt_succ_iff, spanByte]
    · obtain ⟨-, hbyte, -⟩ := mem_headerIds_iff.1 hid
      omega
  · refine execHdrp_of_parse_eq_error (parseHeaderFrom_of_not_terminated fun b hb => ?_)
    obtain ⟨i, hi⟩ := List.mem_iff_getElem?.1 hb
    obtain ⟨hlen, -⟩ := List.getElem?_eq_some_iff.1 hi
    rw [List.length_drop, payload_length] at hlen
    rw [List.getElem?_drop, payload_getElem? s (by omega), Option.some_inj] at hi
    exact hi ▸ (byte_getLsbD_seven_iff _).2 (hall i (by omega))

theorem mem_fieldIds_iff {s : State} {id : Nat} : id ∈ s.fieldIds ↔ ∃ j < s.idn, (s.idlEntry j).toNat = id := by
  simp [State.fieldIds]

theorem idlEntry_mem_fieldIds {s : State} {j : Nat} (hj : j < s.idn) : (s.idlEntry j).toNat ∈ s.fieldIds :=
  mem_fieldIds_iff.2 ⟨j, hj, rfl⟩

/-- What HDRB accepts, entry by entry: OBUF holds at least one byte (R5), so the cap is on the IDs alone. -/
theorem hdrb_accepts_iff {s : State} (hcfg : s.config.wf = true) :
    (0 ∉ s.fieldIds ∧ headerLength s.fieldIds ≤ s.config.obufCap) ↔
      ∀ j < s.idn, 1 ≤ (s.idlEntry j).toNat ∧ (s.idlEntry j).toNat ≤ 7 * (2 * s.config.ibufCap) := by
  have hcap : 1 ≤ s.config.obufCap := by
    simp only [Config.wf, Bool.and_eq_true, decide_eq_true_eq] at hcfg
    unfold Config.obufCap
    omega
  rw [headerLength_le_iff, and_iff_right hcap]
  constructor
  · exact fun ⟨h0, hle⟩ j hj => ⟨Nat.one_le_iff_ne_zero.2 fun h => h0 (h ▸ idlEntry_mem_fieldIds hj),
      hle _ (idlEntry_mem_fieldIds hj)⟩
  · refine fun h => ⟨fun h0 => ?_, fun id hid => ?_⟩
    · obtain ⟨j, hj, hzero⟩ := mem_fieldIds_iff.1 h0
      exact absurd (h j hj).1 (by omega)
    · obtain ⟨j, hj, rfl⟩ := mem_fieldIds_iff.1 hid
      exact (h j hj).2

/-- Settles O40: the IDs decide, and the header built is described by its length and bit by bit. -/
theorem hdrbBuildsMinimalHeader : Obligations.HdrbBuildsMinimalHeader := by
  intro s hcfg
  have hacc := hdrb_accepts_iff hcfg
  obtain ⟨t, ht⟩ := exec_completes .hdrb s
  rcases execHdrb_cases ht with ⟨h0, hfits, rfl⟩ | ⟨hbad, rfl⟩
  · have holen : (succeed (s.memWrite (headerBytes s.fieldIds))).olen = headerLength s.fieldIds := headerBytes_length _
    refine ⟨fun _ => ⟨_, ht, holen ▸ headerLength_pos _, fun j hj => ?_, fun h => ?_, fun k hk => ?_, fun a ha => ?_,
      rfl⟩, fun ⟨j, hj, hbad⟩ => ?_⟩
    · exact holen ▸ le_headerLength (idlEntry_mem_fieldIds hj)
    · rw [holen] at h ⊢
      obtain ⟨id, hid, hlt⟩ := exists_lt_of_lt_headerLength (ids := s.fieldIds) (n := headerLength s.fieldIds - 1)
        (by omega) (by omega)
      obtain ⟨j, hj, rfl⟩ := mem_fieldIds_iff.1 hid
      exact ⟨j, hj, hlt⟩
    · rw [holen] at hk ⊢
      refine ⟨headerByte s.fieldIds k, ?_, ?_, fun bit hbit => ?_⟩
      · rw [succeed_memWrite_obufAt, headerBytes_getElem? _ hk]
      · rw [headerByte_getLsbD_seven, decide_eq_true_iff]
      · rw [headerByte_getLsbD_iff h0 k hbit, mem_fieldIds_iff]
    · exact succeed_memWrite_obufAt_of_le _ _ ha
    · have := hacc.1 ⟨h0, hfits⟩ j hj
      omega
  · refine ⟨fun hall => ?_, fun _ => ht⟩
    obtain ⟨h0, hfits⟩ := hacc.2 hall
    exact absurd hbad (not_or.2 ⟨h0, Nat.not_lt.2 hfits⟩)

end Sys2Proof.Machine

/-! SUPPORT. The statements of 44_frame_header. The fields of FCFG are the same numbers in the model and in the
statements, so the frame parser (R187) is one chain of tests on the state; FCHK past its tests leaves one state, which
the comparison with CLAIM alone decides (R189). -/

namespace Sys2Proof.Machine

open Sys2Proof.Claims

/-! ### The fields of FCFG as numbers (10_state R30) -/

theorem fcfgLengthBytes_eq_lengthBytes (s : State) : fcfgLengthBytes s.fcfg = lengthBytes s := by
  rw [fcfgLengthBytes, toNat_field, Nat.one_shiftLeft]
  rfl

theorem lengthBytes_le (s : State) : lengthBytes s ≤ 8 :=
  Nat.pow_le_pow_right (by decide) (Nat.le_of_lt_succ (Nat.mod_lt _ (by decide)) : s.fcfg.toNat / 8 % 4 ≤ 3)

theorem fcfgLengthOrder_eq_lengthOrder (s : State) : fcfgLengthOrder s.fcfg = lengthOrder s := by
  simp only [fcfgLengthOrder, lengthOrder, getLsbD_eq_decide, decide_eq_true_eq, Nat.reducePow]

theorem fcfgLadj_eq_ladj (s : State) : fcfgLadj s.fcfg = ladj s := toNat_field ..

theorem fcfgCkalg_eq_iff (s : State) (c : BitVec 2) : fcfgCkalg s.fcfg = c ↔ ckalg s = c.toNat := by
  rw [BitVec.toNat_eq, fcfgCkalg, toNat_field]
  rfl

theorem fcfgMandatory_iff (s : State) : fcfgMandatory s.fcfg = true ↔ mandatory s := by
  simp only [fcfgMandatory, mandatory, getLsbD_eq_decide, decide_eq_true_eq, Nat.reducePow]

theorem legalFcfg_iff (s : State) : legalFcfg s.fcfg = true ↔ fcfgIsLegal s := by
  have hhigh : s.fcfg.extractLsb' 24 8 = 0#8 ↔ s.fcfg.toNat / 2 ^ 24 = 0 :=
    (field_eq_zero_iff ..).trans (by rw [Nat.mod_eq_of_lt (by have := s.fcfg.isLt; omega)])
  have hlow : s.fcfg.extractLsb' 9 7 = 0#7 ↔ s.fcfg.toNat / 2 ^ 9 % 2 ^ 7 = 0 := field_eq_zero_iff ..
  simp only [legalFcfg, Bool.and_eq_true, beq_iff_eq, bne_iff_ne, decide_eq_true_eq, ne_eq, fcfgPren_eq_pren,
    fcfgCkalg_eq_iff, hlow, hhigh, and_assoc]
  rfl

theorem legalFcfg_eq_false_iff (s : State) : legalFcfg s.fcfg = false ↔ ¬ fcfgIsLegal s := by
  rw [← legalFcfg_iff, Bool.not_eq_true]

/-! ### The frame parser (R187) -/

/-- The parser's comparison of the preamble, byte by byte. -/
theorem slice_payload_eq_preamble_iff {s : State} (h : s.off.toNat + pren s ≤ s.ilen) :
    slice s.payload s.off.toNat (pren s) = preamble s.fcfg s.fpre ↔ preambleMatches s := by
  rw [slice_payload s h, State.memRead, preamble, fcfgPren_eq_pren, List.map_inj_left]
  simp only [List.mem_range, BitVec.toNat_eq, fpreByte, toNat_field]
  rfl

/-- The frame parser as tests on the state, in their order. -/
theorem parseFrameHeader_eq (s : State) [Decidable (preambleMatches s)] :
    parseFrameHeader s.fcfg s.fpre s.payload s.off.toNat =
      if s.ilen < s.off.toNat + pren s then .error .truncatedPayloadError
      else if ¬ preambleMatches s then .error .invalidPreamble
      else if s.ilen < s.off.toNat + pren s + lengthBytes s then .error .truncatedPayloadError
      else if s.ilen - (s.off.toNat + pren s + lengthBytes s) < declaredLength s + ladj s then
        .error .truncatedPayloadError
      else if declaredLength s + ladj s < s.ilen - (s.off.toNat + pren s + lengthBytes s) then .error .lengthMismatch
      else .ok (declaredLength s, pren s + lengthBytes s) := by
  simp only [parseFrameHeader, payload_length, fcfgPren_eq_pren, fcfgLengthBytes_eq_lengthBytes,
    fcfgLengthOrder_eq_lengthOrder, fcfgLadj_eq_ladj]
  refine ite_congr rfl (fun _ => rfl) fun hpre => ?_
  refine ite_congr ?_ (fun _ => rfl) fun _ => ?_
  · rw [ne_eq, slice_payload_eq_preamble_iff (Nat.not_lt.1 hpre)]
  refine ite_congr rfl (fun _ => rfl) fun hbody => ?_
  rw [slice_payload s (Nat.not_lt.1 hbody)]
  rfl

/-- What the parser has tested when it accepts a frame. -/
theorem frame_of_parse_eq_ok {s : State} {r : Nat × Nat}
    (h : parseFrameHeader s.fcfg s.fpre s.payload s.off.toNat = .ok r) :
    preambleMatches s ∧ s.off.toNat + pren s + lengthBytes s ≤ s.ilen ∧
      s.ilen - (s.off.toNat + pren s + lengthBytes s) = declaredLength s + ladj s := by
  classical
  rw [parseFrameHeader_eq] at h
  split_ifs at h with _ hm
  exact ⟨hm, by omega, by omega⟩

/-! ### FHDR (R188) -/

theorem exec_fhdr_of_parse_error {s : State} {e : ErrCode} (hl : fcfgIsLegal s)
    (hp : parseFrameHeader s.fcfg s.fpre s.payload s.off.toNat = .error e) :
    exec .fhdr s = .next (failFrame e s) :=
  congrArg Host.Outcome.next (fhdrState_of_parse_error ((legalFcfg_iff s).2 hl) hp)

/-- Settles O42: the parser's tests in their order; the declared length fits RES and the header's length CNT. -/
theorem fhdrParsesFrameHeader : Obligations.FhdrParsesFrameHeader := by
  classical
  rintro s body rfl
  have hparse := parseFrameHeader_eq s
  refine ⟨fun hl => ?_, fun hl hend => ?_, fun hl hpre hm => ?_, fun hl hpre hm hend => ?_, fun hl hm hbody hlen => ?_,
    fun hl hm hbody hlen => ?_, fun hl hm hbody hlen => ?_⟩
  · exact congrArg Host.Outcome.next (fhdrState_of_illegal ((legalFcfg_eq_false_iff s).2 hl))
  · exact exec_fhdr_of_parse_error hl (hparse.trans (if_pos hend))
  · rw [if_neg (by omega), if_pos hm] at hparse
    exact exec_fhdr_of_parse_error hl hparse
  · rw [if_neg (by omega), if_neg (not_not.2 hm), if_pos hend] at hparse
    exact exec_fhdr_of_parse_error hl hparse
  · rw [if_neg (by omega), if_neg (not_not.2 hm), if_neg (by omega), if_pos hlen] at hparse
    exact exec_fhdr_of_parse_error hl hparse
  · rw [if_neg (by omega), if_neg (not_not.2 hm), if_neg (by omega), if_neg (by omega), if_pos hlen] at hparse
    exact exec_fhdr_of_parse_error hl hparse
  · rw [if_neg (by omega), if_neg (not_not.2 hm), if_neg (by omega), if_neg (by omega), if_neg (by omega)] at hparse
    have hbytes := lengthBytes_le s
    have hpren : pren s < 8 := Nat.mod_lt _ (by decide)
    have hres : declaredLength s < 2 ^ 64 := natOfBytes_lt_word _ (by rwa [memRead_length])
    exact ⟨_, congrArg Host.Outcome.next (fhdrState_of_parse_ok ((legalFcfg_iff s).2 hl) hparse),
      toNat_ofNat_of_lt hres, toNat_ofNat_of_lt (by omega), rfl⟩

/-- FHDR ends without error only on a frame that passes every test: the converse of the last clause of O42. -/
theorem frame_of_fhdr_ok {s t : State} (h : exec .fhdr s = .next t) (ht : t.err = .ok) :
    fcfgIsLegal s ∧ preambleMatches s ∧ s.off.toNat + pren s + lengthBytes s ≤ s.ilen ∧
      s.ilen - (s.off.toNat + pren s + lengthBytes s) = declaredLength s + ladj s := by
  rcases execFhdr_cases h with ⟨-, rfl⟩ | ⟨hl, ⟨_, _, hp, -⟩ | ⟨e, hp, rfl⟩⟩
  · cases ht
  · exact ⟨(legalFcfg_iff s).1 hl, frame_of_parse_eq_ok hp⟩
  · obtain rfl : e = .ok := ht
    rcases parseFrameHeader_error hp with he | he | he <;> cases he

/-- Settles O45: ILEN enters only the tests of length, so a smaller one fails at the first part of the frame it cuts. -/
theorem frameLengthIsExact : Obligations.FrameLengthIsExact := by
  intro s t n h ht
  obtain ⟨hl, hm, hbody, hlen⟩ := frame_of_fhdr_ok h ht
  obtain ⟨-, hpre', -, hbody', hshort', hlong', -⟩ := fhdrParsesFrameHeader { s with ilen := n } _ rfl
  refine ⟨fun hn => ?_, fun hn => hlong' hl hm (hbody.trans hn.le) ?_⟩
  · by_cases hpre : n < s.off.toNat + pren s
    · exact hpre' hl hpre
    by_cases hcut : n < s.off.toNat + pren s + lengthBytes s
    · exact hbody' hl (Nat.not_lt.1 hpre) hm hcut
    · refine hshort' hl hm (Nat.not_lt.1 hcut) ?_
      show n - (s.off.toNat + pren s + lengthBytes s) < declaredLength s + ladj s
      omega
  · show declaredLength s + ladj s < n - (s.off.toNat + pren s + lengthBytes s)
    omega

/-! ### FCHK (R190) -/

theorem gateChecksum_toNat (s : State) :
    (gateChecksum (fcfgCkalg s.fcfg) s.config.crc8Table (s.memRead s.off.toNat s.len.toNat)).toNat =
      frameChecksum s := by
  simp only [gateChecksum, frameChecksum, fcfgCkalg_eq_iff, apply_ite BitVec.toNat, xorSumWord_toNat, crc16Word_toNat,
    crc8Word_toNat]
  rfl

theorem verdict_of_mandatory {s : State} (h : mandatory s) : verdict s.fcfg false = .rejected := by
  simp [verdict, (fcfgMandatory_iff s).2 h]

theorem verdict_of_not_mandatory {s : State} (h : ¬ mandatory s) : verdict s.fcfg false = .decoded := by
  simp [verdict, mt (fcfgMandatory_iff s).1 h]

theorem verdict_ne_readingBody (f : CmdWord) (ok : Bool) : verdict f ok ≠ .readingBody := by
  unfold verdict
  split <;> nofun

/-- The state FCHK leaves when its tests passed and the checksum of the span is `c`. -/
def judged (s : State) (c : Word) : State :=
  { s with
    res := c
    cnt := s.len
    vok := claimMatches c s.claim
    err := if claimMatches c s.claim then .ok else .checksumMismatch
    fst := verdict s.fcfg (claimMatches c s.claim) }

theorem exec_fchk_of_illegal {s : State} (hl : ¬ fcfgIsLegal s) : exec .fchk s = .next (fail .illegalCommand s) := by
  simp only [exec, execFchk, (legalFcfg_eq_false_iff s).2 hl]
  rfl

theorem exec_fchk_of_fst_ne {s : State} (hl : fcfgIsLegal s) (hf : s.fst ≠ .readingBody) :
    exec .fchk s = .next (fail .badState s) := by
  simp only [exec, execFchk, (legalFcfg_iff s).2 hl, if_pos hf]
  rfl

theorem exec_fchk_of_readingBody {s : State} (hl : fcfgIsLegal s) (hf : s.fst = .readingBody) :
    exec .fchk s = complete s (operandSpan s s.len.toNat >>= fun span =>
      pure (judged s (gateChecksum (fcfgCkalg s.fcfg) s.config.crc8Table span))) := by
  simp only [exec, execFchk, (legalFcfg_iff s).2 hl, if_neg (not_not.2 hf)]
  rfl

theorem exec_fchk_of_le {s : State} (hl : fcfgIsLegal s) (hf : s.fst = .readingBody)
    (hb : s.off.toNat + s.len.toNat ≤ s.ilen) :
    exec .fchk s = .next (judged s
      (gateChecksum (fcfgCkalg s.fcfg) s.config.crc8Table (s.memRead s.off.toNat s.len.toNat))) :=
  (exec_fchk_of_readingBody hl hf).trans (complete_span_of_le hb)

theorem judged_of_match {s : State} {c : Word} (h : c.toNat = s.claim.toNat) :
    (judged s c).vok = true ∧ (judged s c).err = .ok ∧ (judged s c).fst = .decoded := by
  have hm : claimMatches c s.claim = true := (claimMatches_iff _ _).2 (BitVec.eq_of_toNat_eq h)
  simp [judged, hm, verdict]

theorem judged_of_mismatch {s : State} {c : Word} (h : c.toNat ≠ s.claim.toNat) :
    (judged s c).vok = false ∧ (judged s c).err = .checksumMismatch ∧
      (mandatory s → (judged s c).fst = .rejected) ∧ (¬ mandatory s → (judged s c).fst = .decoded) := by
  have hm : claimMatches c s.claim = false := beq_eq_false_iff_ne.2 fun hc => h (hc ▸ rfl)
  simp only [judged, hm, Bool.false_eq_true, if_false, true_and]
  exact ⟨verdict_of_mandatory, verdict_of_not_mandatory⟩

/-- Settles O43: the three early ends, then the state judged by the checksum FCFG selects. -/
theorem fchkGivesVerdict : Obligations.FchkGivesVerdict := by
  intro s
  refine ⟨exec_fchk_of_illegal, exec_fchk_of_fst_ne, fun hl hf hb => ?_, fun hl hf hb => ?_⟩
  · exact (exec_fchk_of_readingBody hl hf).trans (complete_span_of_lt hb)
  · refine ⟨_, exec_fchk_of_le hl hf hb, gateChecksum_toNat s, fun hm => ?_, fun hm => ?_, rfl⟩
    · exact judged_of_match ((gateChecksum_toNat s).trans hm)
    · obtain ⟨hvok, herr, hfst⟩ := judged_of_mismatch ((gateChecksum_toNat s).trans_ne hm)
      exact ⟨hvok, herr, congrArg ErrCode.code herr, hfst⟩

/-- Settles O46: FCHK leaves FCFG as it is, and no verdict is ReadingBody. -/
theorem secondFchkIsBadState : Obligations.SecondFchkIsBadState := by
  intro s t hl hf hb h
  cases (exec_fchk_of_le hl hf hb).symm.trans h
  exact exec_fchk_of_fst_ne (s := judged s _) hl (verdict_ne_readingBody _ _)

/-! ### The transitions of FST (R186) -/

/-- What FHDR can make of FST when it changes it. -/
theorem fhdr_transition {s t : State} (h : exec .fhdr s = .next t) (hne : t.fst ≠ s.fst) :
    fcfgIsLegal s ∧ (t.fst = .readingBody ∧ t.err = .ok ∨
      t.fst = .rejected ∧ t.err ∈ [ErrCode.invalidPreamble, .truncatedPayloadError, .lengthMismatch]) := by
  rcases execFhdr_cases h with ⟨-, rfl⟩ | ⟨hl, ⟨_, _, -, rfl⟩ | ⟨e, hp, rfl⟩⟩
  · exact absurd rfl hne
  · exact ⟨(legalFcfg_iff s).1 hl, .inl ⟨rfl, rfl⟩⟩
  · refine ⟨(legalFcfg_iff s).1 hl, .inr ⟨rfl, ?_⟩⟩
    rcases parseFrameHeader_error hp with rfl | rfl | rfl <;> simp

/-- What FCHK can make of FST when it changes it. -/
theorem fchk_transition {s t : State} (h : exec .fchk s = .next t) (hne : t.fst ≠ s.fst) :
    fcfgIsLegal s ∧ s.fst = .readingBody ∧
      (t.fst = .decoded ∧ t.err = .ok ∨ t.fst = .decoded ∧ t.err = .checksumMismatch ∧ ¬ mandatory s ∨
        t.fst = .rejected ∧ t.err = .checksumMismatch ∧ mandatory s) := by
  rcases execFchk_cases h with ⟨-, rfl⟩ | ⟨-, -, rfl⟩ | ⟨-, -, -, rfl⟩ | ⟨hl, hf, -, _, ok, -, -, rfl⟩
  · exact absurd rfl hne
  · exact absurd rfl hne
  · exact absurd rfl hne
  refine ⟨(legalFcfg_iff s).1 hl, hf, ?_⟩
  cases ok with
  | true => exact .inl ⟨rfl, rfl⟩
  | false =>
    by_cases hm : mandatory s
    · exact .inr (.inr ⟨verdict_of_mandatory hm, rfl, hm⟩)
    · exact .inr (.inl ⟨verdict_of_not_mandatory hm, rfl, hm⟩)

/-- A word that decodes to FHDR or FCHK is the word of that command, and any other Issue leaves FST. -/
theorem issue_transition {w : CmdWord} {s t : State} (h : issue w s = .next t) (hne : t.fst ≠ s.fst) :
    (w = 0x00000030#32 ∧ exec .fhdr s = .next t) ∨ (w = 0x00000031#32 ∧ exec .fchk s = .next t) := by
  cases hd : decode w with
  | error r =>
    rw [issue_of_reject s hd] at h
    cases h
    exact absurd rfl hne
  | ok i =>
    rw [issue_of_decode s hd] at h
    have hword := wordOfDecodedInstruction w i hd
    have hi : i.mnemonic ∈ ["FHDR", "FCHK"] := by_contra fun hi => hne ((exec_effect h).fst_eq hi)
    cases i with
    | fhdr => exact .inl ⟨hword.symm, h⟩
    | fchk => exact .inr ⟨hword.symm, h⟩
    | _ => exact absurd hi (by simp [Instr.mnemonic])

theorem hostWriteReg_fst (r : Reg) (v : Nat) (s : State) : (hostWriteReg r v s).fst = s.fst := by
  cases r <;> rfl

/-- A host action other than Reset and Issue leaves FST. -/
theorem performAction_transition {a : HostAction} {s t : State} (h : performAction a s = .next t)
    (hne : t.fst ≠ s.fst) : (a = .reset ∧ t.fst = .awaitingPreamble) ∨ ∃ w, a = .issue w ∧ issue w s = .next t := by
  have hw := wellFormed_of_performAction_eq_next h
  unfold performAction at h
  rw [if_pos hw] at h
  cases a with
  | issue w => exact .inr ⟨w, rfl, h⟩
  | reset => cases h; exact .inl ⟨rfl, rfl⟩
  | writeReg r v => cases h; exact absurd (hostWriteReg_fst r v s) hne
  | writeIbuf | writeIdl | read => cases h; exact absurd rfl hne

/-- Settles O44: of the host actions Reset and Issue change FST, of the commands FHDR and FCHK. -/
theorem frameStateTransitions : Obligations.FrameStateTransitions := by
  intro s t a rest hp h hne
  rw [step_eq_performAction hp] at h
  rcases performAction_transition h hne with hreset | ⟨w, rfl, hissue⟩
  · exact .inl hreset
  rcases issue_transition hissue hne with ⟨rfl, hexec⟩ | ⟨rfl, hexec⟩
  · exact .inr (.inl ⟨rfl, fhdr_transition (s := taking rest s) hexec hne⟩)
  · exact .inr (.inr ⟨rfl, fchk_transition (s := taking rest s) hexec hne⟩)

end Sys2Proof.Machine

/-! SUPPORT. What an error and a run can do (60_exceptions): every command completes, which command raises which code,
what a failure leaves, and that a host keeping to its contract is served without end. -/

namespace Sys2Proof.Machine

open Sys2Proof.Claims

/-! ### Completion and failure of a command -/

/-- Settles O47: every arm of `exec` answers a next state. -/
theorem everyCommandCompletes : Obligations.EveryCommandCompletes := exec_completes

/-- Settles O48: the kinds of `Effect` that leave a code are a failure, a rejected frame and a judged one. -/
theorem failureChangesOnlyStatus : Obligations.FailureChangesOnlyStatus := by
  intro i s t h hne
  cases exec_effect h with
  | fails => exact .inr ⟨rfl, .inl rfl⟩
  | rejects => exact .inr ⟨rfl, .inr ⟨rfl, rfl⟩⟩
  | @judges r =>
    have hm : ¬ claimMatches r s.claim = true := fun hm => hne (if_pos hm)
    exact .inl ⟨rfl, if_neg hm⟩
  | reads | verifies | produces | lists | accepts => exact absurd rfl hne

/-! ### Which command raises which code -/

/-- The table of R200, by its column "Raised by": the commands that can leave a code in ERR. -/
def raisedBy : ErrCode → Instr → Prop
  | .ok, _ => True
  | .invalidPreamble, i | .lengthMismatch, i => i = .fhdr
  | .checksumMismatch, i | .badState, i => i = .fchk
  | .truncatedPayloadError, i => i.mnemonic ∈ truncatable
  | .malformedHeaderError, i => i = .hdrp
  | .valueOutOfRange, i => i.mnemonic ∈ ["WRINT", "WRF32LE", "STR2BCD", "IMEI2BCD", "HDRB"]
  | .bcdNibbleError, i => i.mnemonic ∈ ["BCD2STR", "BCD2IMEI"]
  | .illegalCommand, i => i = .fhdr ∨ i = .fchk
  | .malformedHexInput, _ | .unknownFieldError, _ => False

/-- XORC, C16C and C8C. -/
theorem computeChecksum_raisedBy {checksum : List Byte → Word} {i : Instr} {s t : State}
    (hi : i.mnemonic ∈ truncatable) (h : computeChecksum checksum s = .next t) : raisedBy t.err i := by
  rcases computeChecksum_cases h with ⟨-, rfl⟩ | ⟨-, rfl⟩
  · trivial
  · exact hi

/-- XORV, C16V and C8V. -/
theorem verifyChecksum_raisedBy {checksum : List Byte → Word} {i : Instr} {s t : State}
    (hi : i.mnemonic ∈ truncatable) (h : verifyChecksum checksum s = .next t) : raisedBy t.err i := by
  rcases verifyChecksum_cases h with ⟨-, rfl⟩ | ⟨-, rfl⟩
  · trivial
  · exact hi

/-- The code a command leaves is one that R200 lists for it. -/
theorem exec_raisedBy {i : Instr} {s t : State} (h : exec i s = .next t) : raisedBy t.err i := by
  cases i with
  | rdint w e sg =>
    rcases execRdint_cases h with ⟨-, rfl⟩ | ⟨-, rfl⟩
    · trivial
    · simp [raisedBy, Instr.mnemonic, truncatable]
  | wrint w e sg =>
    rcases execWrint_cases h with ⟨_, -, rfl⟩ | ⟨-, rfl⟩
    · trivial
    · simp [raisedBy, Instr.mnemonic]
  | rdf32le =>
    rcases execRdf32le_cases h with ⟨-, rfl⟩ | ⟨-, rfl⟩
    · trivial
    · simp [raisedBy, Instr.mnemonic, truncatable]
  | wrf32le =>
    rcases execWrf32le_cases h with ⟨-, rfl⟩ | ⟨-, rfl⟩
    · trivial
    · simp [raisedBy, Instr.mnemonic]
  | bcd2str =>
    rcases execBcd2str_cases h with ⟨-, ⟨_, -, rfl⟩ | ⟨-, rfl⟩⟩ | ⟨-, rfl⟩
    · trivial
    · simp [raisedBy, Instr.mnemonic]
    · simp [raisedBy, Instr.mnemonic, truncatable]
  | str2bcd =>
    rcases execStr2bcd_cases h with ⟨-, ⟨_, -, -, rfl⟩ | ⟨-, rfl⟩⟩ | ⟨-, rfl⟩
    · trivial
    · simp [raisedBy, Instr.mnemonic]
    · simp [raisedBy, Instr.mnemonic, truncatable]
  | imei2bcd m =>
    rcases execImei2bcd_cases h with ⟨-, ⟨_, -, rfl⟩ | ⟨-, rfl⟩⟩ | ⟨-, rfl⟩
    · trivial
    · simp [raisedBy, Instr.mnemonic]
    · simp [raisedBy, Instr.mnemonic, truncatable]
  | bcd2imei m =>
    rcases execBcd2imei_cases h with ⟨-, ⟨_, -, rfl⟩ | ⟨-, rfl⟩⟩ | ⟨-, rfl⟩
    · trivial
    · simp [raisedBy, Instr.mnemonic]
    · simp [raisedBy, Instr.mnemonic, truncatable]
  | xorc | c16c | c8c => exact computeChecksum_raisedBy (by decide) h
  | xorv | c16v | c8v => exact verifyChecksum_raisedBy (by decide) h
  | hdrp =>
    rcases execHdrp_cases h with ⟨_, _, -, rfl⟩ | ⟨-, rfl⟩
    · trivial
    · exact rfl
  | hdrb =>
    rcases execHdrb_cases h with ⟨-, -, rfl⟩ | ⟨-, rfl⟩
    · trivial
    · simp [raisedBy, Instr.mnemonic]
  | fhdr =>
    rcases execFhdr_cases h with ⟨-, rfl⟩ | ⟨-, ⟨_, _, -, rfl⟩ | ⟨e, he, rfl⟩⟩
    · exact .inl rfl
    · trivial
    · rcases parseFrameHeader_error he with rfl | rfl | rfl <;> simp [raisedBy, Instr.mnemonic, truncatable]
  | fchk =>
    rcases execFchk_cases h with ⟨-, rfl⟩ | ⟨-, -, rfl⟩ | ⟨-, -, -, rfl⟩ | ⟨-, -, -, _, ok, -, -, rfl⟩
    · exact .inr rfl
    · exact rfl
    · simp [raisedBy, Instr.mnemonic, truncatable]
    · cases ok with
      | true => trivial
      | false => exact rfl

/-- Settles O56: each clause is the row of its code in `raisedBy`, and the two reserved codes have no raiser. -/
theorem errorCodesRaisedBy : Obligations.ErrorCodesRaisedBy := by
  intro i s t h
  have row {e : ErrCode} (he : t.err = e) : raisedBy e i := he ▸ exec_raisedBy h
  exact ⟨row, row, row, row, row, row, row, row, row, row, row⟩

/-! ### A run of host actions -/

theorem issue_keeps_queue {w : CmdWord} {s t : State} (h : issue w s = .next t) :
    t.pending = s.pending ∧ t.config = s.config := by
  cases hd : decode w with
  | ok i =>
    rw [issue_of_decode s hd] at h
    rw [← exec_resultsOver h]
    exact ⟨rfl, rfl⟩
  | error r =>
    rw [issue_of_reject s hd] at h
    cases h
    exact ⟨rfl, rfl⟩

/-- No host action changes the actions that come after it, or the parameters (R40, R61). -/
theorem performAction_keeps_queue {a : HostAction} {s t : State} (h : performAction a s = .next t) :
    t.pending = s.pending ∧ t.config = s.config := by
  have hw := wellFormed_of_performAction_eq_next h
  unfold performAction at h
  rw [if_pos hw] at h
  cases a with
  | issue w => exact issue_keeps_queue h
  | writeReg r v => cases h; cases r <;> exact ⟨rfl, rfl⟩
  | writeIbuf | writeIdl | read | reset => cases h; exact ⟨rfl, rfl⟩

/-- Every action to come is one of R60, in numbers. -/
def hostKeepsContract (s : State) : Prop := ∀ a ∈ s.pending, hostMay s.config.ibufCap a

theorem withinContract_iff (s : State) : s.withinContract = true ↔ hostKeepsContract s := by
  simp only [State.withinContract, List.all_eq_true, wellFormed_iff_hostMay, hostKeepsContract]

/-- A host that keeps to its contract is served: the step takes its first action, if it has one (R205, R231). -/
theorem step_of_hostKeepsContract {s : State} (hs : hostKeepsContract s) :
    ∃ t, step s = .next t ∧ t.pending = s.pending.drop 1 ∧ t.config = s.config := by
  cases hp : s.pending with
  | nil => exact ⟨s, step_nil hp, hp, rfl⟩
  | cons a rest =>
    have ha : hostMay s.config.ibufCap a := hs a (hp ▸ List.mem_cons_self)
    obtain ⟨t, ht⟩ := performAction_completes (s := taking rest s) ha
    exact ⟨t, (step_eq_performAction hp).trans ht, performAction_keeps_queue ht⟩

theorem hostKeepsContract_of_drop {s t : State} {n : Nat} (hs : hostKeepsContract s)
    (hp : t.pending = s.pending.drop n) (hc : t.config = s.config) : hostKeepsContract t := by
  intro a ha
  rw [hp] at ha
  rw [hc]
  exact hs a (List.mem_of_mem_drop ha)

theorem core_run_succ {s t : State} (h : step s = .next t) (n : Nat) :
    Sys2Proof.core.run (n + 1) s = Sys2Proof.core.run n t := by
  have hstep : Sys2Proof.core.step s = .next t := h
  simp only [Host.Core.run, hstep]

theorem run_of_hostKeepsContract {s : State} (hs : hostKeepsContract s) (n : Nat) :
    ∃ t, Sys2Proof.core.run n s = .next t ∧ t.pending = s.pending.drop n ∧ t.config = s.config := by
  induction n generalizing s with
  | zero => exact ⟨s, rfl, rfl, rfl⟩
  | succ n ih =>
    obtain ⟨u, hstep, hup, huc⟩ := step_of_hostKeepsContract hs
    obtain ⟨t, hrun, htp, htc⟩ := ih (hostKeepsContract_of_drop hs hup huc)
    refine ⟨t, (core_run_succ hstep n).trans hrun, ?_, htc.trans huc⟩
    rw [htp, hup, List.drop_drop, Nat.add_comm]

/-- Settles O60: one step takes one action and leaves a queue that keeps the contract, by induction on the number of
steps. -/
theorem contractualRunNeverStops : Obligations.ContractualRunNeverStops :=
  fun s => ⟨withinContract_iff s, run_of_hostKeepsContract⟩

end Sys2Proof.Machine

/-! SUPPORT. The statements of 70_reset: what each command gives straight after reset, by the command's own lemma at a
state whose payload, ID list and operands are empty or 0, and the engine with no host action to come. -/

namespace Sys2Proof.Machine

open Sys2Proof.Claims

/-! ### Without a host action -/

/-- Settles O14: there is no action to take from an empty queue (`step_nil`). -/
theorem idleEngineStays : Obligations.IdleEngineStays := fun _ => step_nil

/-! ### Writing 0 -/

theorem leBytes_of_zero (w : Nat) : leBytes 0 w = List.replicate w 0#8 := by
  induction w with
  | zero => rfl
  | succ w ih => exact congrArg (0#8 :: ·) ih

theorem bytesOfNat_of_zero (e : Endian) (w : Nat) : bytesOfNat e 0 w = List.replicate w 0#8 := by
  cases e with
  | little => exact leBytes_of_zero w
  | big => exact (congrArg List.reverse (leBytes_of_zero w)).trans List.reverse_replicate

theorem intFits_zero (w : Nat) (sg : Sign) : intFits 0 w sg = true := by
  cases sg with
  | unsigned => exact (intFits_unsigned_iff ..).2 ⟨le_rfl, by positivity⟩
  | signed => exact (intFits_signed_iff ..).2 ⟨neg_nonpos.2 (by positivity), by positivity⟩

theorem writeInt_zero (w : Nat) (e : Endian) (sg : Sign) : writeInt 0 w e sg = .ok (List.replicate w 0#8) := by
  rw [writeInt_of_fits e (intFits_zero w sg), Int.zero_emod, Int.toNat_zero, bytesOfNat_of_zero]

/-- WRINT of 0 writes zeros, whichever the form (R105). -/
theorem exec_wrint_of_val_zero {s : State} (hval : s.val = 0#64) (w : Width) (e : Endian) (sg : Sign) :
    exec (.wrint w e sg) s = .next (succeed (s.memWrite (List.replicate (widthBytes w) 0#8))) := by
  have hoperand : valueOperand sg s.val = 0 := by
    rw [hval]
    cases sg <;> rfl
  rw [exec, execWrint, hoperand, writeInt_zero]
  rfl

/-- WRF32LE of 0 writes four zeros (R110). -/
theorem exec_wrf32le_of_val_zero {s : State} (hval : s.val = 0#64) :
    exec .wrf32le s = .next (succeed (s.memWrite (List.replicate 4 0x00#8))) := by
  have hfits : ¬ s.val.toNat ≥ 2 ^ 32 := by rw [hval]; decide
  rw [exec, execWrf32le, if_neg hfits, writeFloat32LE, hval]
  exact congrArg (fun v => Host.Outcome.next (succeed (s.memWrite v))) (leBytes_of_zero 4)

/-! ### An empty header -/

/-- HDRB of an empty list writes the one byte 0x00, for which any OBUF has room (R5, R175). -/
theorem exec_hdrb_of_idn_zero {s : State} (hcfg : s.config.wf = true) (hidn : s.idn = 0) :
    exec .hdrb s = .next (succeed (s.memWrite [0x00#8])) := by
  have hids : s.fieldIds = [] := by rw [State.fieldIds, hidn]; rfl
  obtain ⟨hzero, hfits⟩ := (hdrb_accepts_iff hcfg).2 fun j hj => absurd hj (by omega)
  obtain ⟨t, ht⟩ := exec_completes .hdrb s
  rcases execHdrb_cases ht with ⟨-, -, rfl⟩ | ⟨hbad, -⟩
  · rw [ht, hids]
    rfl
  · exact absurd hbad (not_or.2 ⟨hzero, Nat.not_lt.2 hfits⟩)

/-! ### Straight after reset (R222) -/

/-- The state after reset of an engine with the parameters `c` (R40, R41). -/
abbrev State.resetWith (c : Config) : State := { State.reset with config := c }

section
variable (c : Config)

/-- ILEN is 0, so a span of at least one byte is out of bounds (R53). -/
theorem complete_span_resetWith {n : Nat} (hn : 0 < n) {f : List Byte → Except ErrCode State} :
    complete (.resetWith c) (operandSpan (.resetWith c) n >>= f) =
      .next (fail .truncatedPayloadError (.resetWith c)) :=
  complete_span_of_lt (hn.trans_eq (Nat.zero_add n).symm)

/-- LEN is 0, so the span of LEN bytes is empty and inside its bounds (R53). -/
theorem complete_len_span_resetWith {f : List Byte → Except ErrCode State} :
    complete (.resetWith c) (operandSpan (.resetWith c) (State.resetWith c).len.toNat >>= f) =
      complete (.resetWith c) (f []) :=
  complete_span_of_le (Nat.le_refl 0)

theorem fcfgIsLegal_resetWith : fcfgIsLegal (.resetWith c) := by
  change fcfgIsLegal State.reset
  unfold fcfgIsLegal
  decide

/-- A compute command takes the checksum of no bytes. -/
theorem computeChecksum_resetWith {checksum : List Byte → Word} {v : Word} (h : checksum [] = v) :
    computeChecksum checksum (.resetWith c) = .next { State.resetWith c with res := v } :=
  h ▸ complete_len_span_resetWith c

/-- A verify command compares the checksum of no bytes with a CLAIM of 0. -/
theorem verifyChecksum_resetWith {checksum : List Byte → Word} {v : Word} (h : checksum [] = v) :
    verifyChecksum checksum (.resetWith c) =
      .next { State.resetWith c with res := v, vok := claimMatches v 0#64 } :=
  h ▸ complete_len_span_resetWith c

/-- An empty string is no IMEI (R125, R126). -/
theorem exec_imei2bcd_resetWith (m : ImeiLayout) :
    exec (.imei2bcd m) (.resetWith c) = .next (fail .valueOutOfRange (.resetWith c)) := by
  cases m <;> exact complete_len_span_resetWith c

/-- An empty payload ends before its header does (R172). -/
theorem exec_hdrp_resetWith : exec .hdrp (.resetWith c) = .next (fail .malformedHeaderError (.resetWith c)) :=
  execHdrp_of_parse_eq_error rfl

/-- FCFG asks for no preamble, and the empty payload is too short for the length field (R187). -/
theorem exec_fhdr_resetWith :
    exec .fhdr (.resetWith c) = .next (failFrame .truncatedPayloadError (.resetWith c)) := by
  obtain ⟨-, -, -, hshort, -⟩ := fhdrParsesFrameHeader (.resetWith c) _ rfl
  exact hshort (fcfgIsLegal_resetWith c) (Nat.le_refl 0) (fun i hi => absurd hi (Nat.not_lt_zero i))
    (Nat.lt_add_left _ (Nat.two_pow_pos _))

theorem exec_fchk_resetWith : exec .fchk (.resetWith c) = .next (fail .badState (.resetWith c)) :=
  exec_fchk_of_fst_ne (fcfgIsLegal_resetWith c) nofun

theorem exec_wrint_resetWith (w : Width) (e : Endian) (sg : Sign) :
    ∃ t, exec (.wrint w e sg) (.resetWith c) = .next t ∧ t.olen = widthBytes w ∧
      (∀ k < widthBytes w, t.obufAt k = some 0x00#8) ∧
      t = { State.resetWith c with obuf := t.obuf, olen := t.olen } := by
  refine ⟨_, exec_wrint_of_val_zero rfl w e sg, List.length_replicate, fun k hk => ?_, rfl⟩
  rw [succeed_memWrite_obufAt, List.getElem?_replicate_of_lt hk]

end

/-- Settles O13: the span commands that need a byte fail, those over LEN bytes see none, and only HDRB needs R5. -/
theorem commandsAfterReset : Obligations.CommandsAfterReset := by
  rintro c _ hc rfl
  exact ⟨
    fun w _ _ => complete_span_resetWith c (widthBytes_pos w),
    complete_span_resetWith c (by decide),
    fun _ => complete_span_resetWith c (by decide),
    exec_hdrp_resetWith c,
    exec_imei2bcd_resetWith c,
    exec_fchk_resetWith c,
    exec_fhdr_resetWith c,
    computeChecksum_resetWith c (checksum := xorSumWord) (by decide),
    computeChecksum_resetWith c (checksum := crc16Word) (by decide),
    computeChecksum_resetWith c (checksum := crc8Word c.crc8Table) rfl,
    verifyChecksum_resetWith c (checksum := xorSumWord) (by decide),
    verifyChecksum_resetWith c (checksum := crc16Word) (by decide),
    verifyChecksum_resetWith c (checksum := crc8Word c.crc8Table) rfl,
    complete_len_span_resetWith c,
    complete_len_span_resetWith c,
    exec_wrint_resetWith c,
    exec_wrf32le_of_val_zero rfl,
    exec_hdrb_of_idn_zero hc rfl⟩

end Sys2Proof.Machine
